-- ==== Sys2Proof/Word.lean ====
section
/-! DEFINITION. The machine's word types (spec/00_scope.md R9, spec/20_memory.md R121, R125). -/

namespace Sys2Proof

/-- A byte of data space (20_memory.md R125). -/
abbrev Byte := BitVec 8

/-- A data word, a data address or a 16-bit register (10_state.md R20, 20_memory.md R125). -/
abbrev Word := BitVec 16

/-- A word of program memory: an instruction word or a vector (20_memory.md R121). -/
abbrev PWord := BitVec 24

/-- A program address as the PC holds it: 23 bits, bit 0 always 0 (10_state.md R21). -/
abbrev PAddr := BitVec 23

/-- An accumulator, bits 39 to 0 (10_state.md R26). -/
abbrev Acc := BitVec 40

/-- A source number q, 0 to 117 (11_interrupt_source_registers.md R70). -/
abbrev Source := Fin 118

end Sys2Proof
end

