-- ==== Sys2Proof/Syntax.lean ====
section
/-! DEFINITION. The instructions: one constructor for each row of spec/opcode_table.json
(spec/30_encoding.md R154). -/

namespace Sys2Proof

/-- The instructions of the opcode table. -/
inductive Instr where
  /-- `DISI #lit14` (40_interrupt_control_instructions.md R161, R162). -/
  | disi (lit14 : BitVec 14)
  /-- `RETFIE` (40 R170). -/
  | retfie
  /-- `PWRSAV #lit1`: 0 Sleep, 1 Idle (40 R172). -/
  | pwrsav (lit1 : BitVec 1)
  /-- `RESET` (40 R173). -/
  | reset
  /-- `GOTO lit23`, an even program address (40 R174, 30 R154). -/
  | goto (target : PAddr)
  deriving DecidableEq, Repr

end Sys2Proof
end

