-- ==== Sys2Proof/WellFormed.lean ====
section
/-! DEFINITION. Which instructions have an encoding: the target of a `GOTO` is an EVEN 23-bit program
address (spec/30_encoding.md R154). The other operands are as wide as their fields. -/

namespace Sys2Proof

/-- The instruction has an encoding (30_encoding.md R154, R155). -/
def Instr.wf : Instr → Bool
  | .disi _ => true
  | .retfie => true
  | .pwrsav _ => true
  | .reset => true
  | .goto target => !target.getLsbD 0

end Sys2Proof
end

