-- ==== Sys2Proof/Decode.lean ====
section
/-! DEFINITION. The decoder, total on any program words and rejecting by name, the encoder beside it, and the
host's view of the decoder. Patterns are those of spec/30_encoding.md R154 (from general knowledge there,
PRESUMED: log 12). -/

namespace Sys2Proof

/-- Why words are no instruction of the opcode table (30_encoding.md R156, 93 rows 19, 20). -/
inductive DecodeError where
  /-- There is no word to decode. -/
  | noWord
  /-- The first word matches no row of the opcode table. -/
  | unknownWord (w : PWord)
  /-- `GOTO` without its second word. -/
  | gotoTruncated
  /-- `GOTO` whose second word has one of bits 23:7 set (93 row 20). -/
  | gotoSecondWord (w : PWord)
  deriving DecidableEq, Repr

/-- A row of the opcode table: the first word `w` matches when `w AND mask = value`. -/
structure OpcodeRow where
  mnemonic : String
  mask : PWord
  value : PWord
  deriving DecidableEq, Repr

/-- The match and mask columns of 30_encoding.md R154. -/
def opcodeRows : List OpcodeRow :=
  [⟨"DISI", 0xFFC000#24, 0xFC0000#24⟩,
   ⟨"RETFIE", 0xFFFFFF#24, 0x064000#24⟩,
   ⟨"PWRSAV", 0xFFFFFE#24, 0xFE4000#24⟩,
   ⟨"RESET", 0xFFFFFF#24, 0xFE0000#24⟩,
   ⟨"GOTO", 0xFF0001#24, 0x040000#24⟩]

/-- The word matches the row. -/
def OpcodeRow.fits (r : OpcodeRow) (w : PWord) : Bool :=
  w &&& r.mask == r.value

/-- The target of a `GOTO`: second[6:0] : first[15:1] : 0 (30_encoding.md R154). -/
def gotoTarget (first second : PWord) : PAddr :=
  second.extractLsb' 0 7 ++ (first.extractLsb' 1 15 ++ 0#1)

/-- The second word of a `GOTO` has its bits 23:7 zero (30 R154, 93 row 20). -/
def gotoSecondOk (second : PWord) : Bool :=
  second &&& 0xFFFF80#24 == 0#24

/-- Decoding of a word and the words after it (30_encoding.md R154; every other word is refused, R156). -/
def decode : List PWord → Except DecodeError Instr
  | [] => .error .noWord
  | w :: rest =>
    if w &&& 0xFFC000#24 == 0xFC0000#24 then .ok (.disi (w.extractLsb' 0 14))
    else if w == 0x064000#24 then .ok .retfie
    else if w &&& 0xFFFFFE#24 == 0xFE4000#24 then .ok (.pwrsav (w.extractLsb' 0 1))
    else if w == 0xFE0000#24 then .ok .reset
    else if w &&& 0xFF0001#24 == 0x040000#24 then
      match rest with
      | [] => .error .gotoTruncated
      | second :: _ =>
        if gotoSecondOk second then .ok (.goto (gotoTarget w second))
        else .error (.gotoSecondWord second)
    else .error (.unknownWord w)

/-- The word executes as a `NOP` if it is fetched as a first word: its top 8 bits are zero, as in the second
word of a two-word instruction (30_encoding.md R152, general knowledge there, PRESUMED: log 12). -/
def executesAsNop (w : PWord) : Bool := w.extractLsb' 16 8 == 0#8

/-- The words of an instruction, first word first (30_encoding.md R154). -/
def encode : Instr → List PWord
  | .disi lit14 => [0b1111110000#10 ++ lit14]
  | .retfie => [0x064000#24]
  | .pwrsav lit1 => [0b11111110010000000000000#23 ++ lit1]
  | .reset => [0xFE0000#24]
  | .goto target =>
    [0x04#8 ++ (target.extractLsb' 1 15 ++ 0#1), 0#17 ++ target.extractLsb' 16 7]

/-- How many program words an instruction takes (30_encoding.md R152). -/
def Instr.words : Instr → Nat
  | .disi _ => 1
  | .retfie => 1
  | .pwrsav _ => 1
  | .reset => 1
  | .goto _ => 2

/-- The words of program memory the bits of `w` stand for, the first word in bits 23:0, the next in bits
47:24; the bits from `nbits` up are zero. Two words, the longest instruction. -/
def tableWords (nbits w : Nat) : List PWord :=
  [BitVec.ofNat 24 (w % 2 ^ nbits), BitVec.ofNat 24 ((w % 2 ^ nbits) / 2 ^ 24)]

/-- What the decoder reads from an instruction numbered as spec/opcode_table.json numbers its bits. -/
def decodeTableWord (nbits w : Nat) : Option Instr :=
  (decode (tableWords nbits w)).toOption

end Sys2Proof
end

