-- ==== Sys2Proof/Config.lean ====
section
/-! DEFINITION. What an implementation fixes (the parameters of spec/00_scope.md R8, as plain data that
`State` carries: log 1) and the FREE VALUES, opaque constants about which nothing can be proved. -/

namespace Sys2Proof

/-- `BYTE_ORDER` (20_memory.md R132). -/
inductive ByteOrder where
  | little | big
  deriving DecidableEq, Repr

/-- `DISI_ZERO` (40_interrupt_control_instructions.md R166). -/
inductive DisiZero where
  | clears | oneBoundary
  deriving DecidableEq, Repr

/-- `EXC_PUSH_STACK_CHECK` (60_exceptions.md R249). -/
inductive PushCheck where
  | checked | unchecked
  deriving DecidableEq, Repr

/-- `HARD_TRAP_BLOCKED` (60_exceptions.md R258). -/
inductive HardTrapBlocked where
  | reset | stall
  deriving DecidableEq, Repr

/-- The CPU registers whose data addresses are the parameter `SFR_ADDR_CPU` (10_state.md R60). -/
inductive CpuReg where
  | w15 | splim | sr | corcon | disicnt | rcon | osccon
  deriving DecidableEq, Repr

/-- The implementation parameters (00_scope.md R8). An address set is a list of closed ranges. -/
structure Params where
  /-- `IMPLEMENTED`: bit q says that the device has source q (11 R71). -/
  implemented : BitVec 118
  /-- `PROG_IMPL` above the fixed low part, which is implemented on every device (20 R124). -/
  progImpl : List (Nat × Nat)
  /-- `DATA_IMPL` beside the registers of Table 6-2, which are on every device (20 R130). -/
  dataImpl : List (Nat × Nat)
  /-- `X_SPACE` (20 R130). -/
  xSpace : List (Nat × Nat)
  /-- `Y_SPACE` (20 R130). -/
  ySpace : List (Nat × Nat)
  byteOrder : ByteOrder
  /-- `SOFT_TRAP_SKID`: the bound of the draw (60 R228). -/
  softTrapSkid : Nat
  disiZero : DisiZero
  excPushStackCheck : PushCheck
  hardTrapBlocked : HardTrapBlocked
  /-- `TRAP_WAKES` (60 R263). -/
  trapWakes : Bool
  /-- `SFR_ADDR_CPU`: data address of each CPU register that has one (10 R60). -/
  cpuRegs : List (Nat × CpuReg)
  deriving DecidableEq, Repr

/-- The parameters `State.reset` carries. The defaults of 00_scope.md R8 where it gives one; program and
data memory as the programs of 95_test_vectors.md section 3 take them (SFR space 0x0000 to 0x07FF by
20 R126); `EXC_PUSH_STACK_CHECK` the recommended value; the addresses of 93 G23. X and Y space and
`HARD_TRAP_BLOCKED` are the model's choice. DESIGN CHOICE, unsafe (log 1). -/
def Params.default : Params where
  implemented := 0xF7BFFFDFFFFFFB7FFF#118
  progImpl := [(0x000000, 0x00AFFF)]
  dataImpl := [(0x0000, 0x27FF)]
  xSpace := [(0x0000, 0x17FF)]
  ySpace := [(0x1800, 0x27FF)]
  byteOrder := .little
  softTrapSkid := 2
  disiZero := .clears
  excPushStackCheck := .checked
  hardTrapBlocked := .reset
  trapWakes := true
  cpuRegs := [(0x001E, .w15), (0x0020, .splim), (0x0042, .sr), (0x0044, .corcon),
    (0x0052, .disicnt), (0x0740, .rcon), (0x0742, .osccon)]

/-! ### Free values
Each is applied to the counter `draws` of State (a fresh value for every use) and, where the spec lets a
device keep what was there, to the old value too. -/

/-- How many instructions a soft trap slips, before reduction to 0 … `SOFT_TRAP_SKID` (60 R228; log 9). -/
opaque Config.skidDraw : Nat → Nat

/-- Cycles of a step beyond the first, where the spec gives no figure (40 R164, 70 R334; log 8). -/
opaque Config.extraCycles : Nat → Nat

/-- A byte of data memory that nothing has written since power-on or the given reset: epoch, address
(70 R301; log 4). -/
opaque Config.ramFree : Nat → Nat → Byte

/-- What a device reset leaves in a byte of data memory: draw, address, byte before (70 R301; log 3). -/
opaque Config.ramAfterReset : Nat → Nat → Byte → Byte

/-- A word of program memory that was not programmed or is not implemented (20 R124; log 5). -/
opaque Config.progFree : Nat → PWord

/-- The value a misaligned read or a read of unimplemented data space delivers (41 R195, R197; log 37). -/
opaque Config.openWord : Nat → Word

/-- The upper half of what a byte read delivers: the source has no extension rule (41 R213; log 38). -/
opaque Config.byteReadHigh : Nat → Byte

/-- SPLIM after a device reset: draw, value before (70 R301; log 3). -/
opaque Config.splimAfterReset : Nat → Word → Word

/-- W0 to W14 after a device reset: draw, register number, value before (70 R301; log 3). -/
opaque Config.wAfterReset : Nat → Nat → Word → Word

/-- Accumulator A after a device reset: draw, value before (70 R301; log 3). -/
opaque Config.accAAfterReset : Nat → Acc → Acc

/-- Accumulator B after a device reset: draw, value before (70 R301; log 3). -/
opaque Config.accBAfterReset : Nat → Acc → Acc

/-- CF after a device reset: draw, value before (70 R301; log 3). -/
opaque Config.cfAfterReset : Nat → Bool → Bool

/-- The pin history after a device reset: draw, value before (70 R301; log 3). -/
opaque Config.pinsAfterReset : Nat → BitVec 5 → BitVec 5

/-- TRAPR after a reset that is neither `trap_conflict` nor `software`: draw, value before
(93 row 11; log 3). -/
opaque Config.traprAfterReset : Nat → Bool → Bool

/-- TRAPR after a software write of RCON: draw, word written, value before (10 R44; log 21). -/
opaque Config.traprAfterWrite : Nat → Word → Bool → Bool

/-- CF after a software write of OSCCON: draw, word written, value before (10 R45; log 21). -/
opaque Config.cfAfterWrite : Nat → Word → Bool → Bool

/-- RCON<14:0>, which belong to the Reset module (10 R44; log 21). -/
opaque Config.rconRest : Nat → BitVec 15

/-- OSCCON with its bit 3 to be replaced by CF (10 R45; log 21). -/
opaque Config.oscconRest : Nat → Word

/-- The address after the last of program space, from the address the PC held (10 R22; log 10). -/
opaque Config.pcPastTop : PAddr → PAddr

end Sys2Proof
end

