-- ==== Sys2Proof/Machine/Inputs.lean ====
section
/-! DEFINITION. The names of registers and traps, and what the environments of spec/00_scope.md R6 deliver to
the machine: events between boundaries and the effects of the instructions that are not in the opcode table.
All of it is plain data, held in the queues of `State` (log 6). -/

namespace Sys2Proof.Machine

/-- The registers software reads and writes, each under its own name (10_state.md R20,
11_interrupt_source_registers.md R72). -/
inductive Reg where
  | sr | corcon | disicnt | splim | rcon | osccon
  | intcon1 | intcon2
  /-- IFS0 to IFS7. -/
  | ifs (n : Fin 8)
  /-- IEC0 to IEC7. -/
  | iec (n : Fin 8)
  /-- IPC0 to IPC29. -/
  | ipc (n : Fin 30)
  /-- W0 to W15; W15 is the stack pointer. -/
  | w (i : Fin 16)
  deriving DecidableEq, Repr

/-- The five implemented traps (60_exceptions.md R222). -/
inductive Trap where
  | oscFail | addrErr | stkErr | mathErr | dmacErr
  deriving DecidableEq, Repr

/-- Interrupt or trap, the `kind` of 60_exceptions.md R242. -/
inductive Kind where
  | trap | interrupt
  deriving DecidableEq, Repr

/-- The power mode (10_state.md R48). -/
inductive PowerMode where
  | run | sleep | idle
  deriving DecidableEq, Repr

/-- The kinds of reset (70_reset_and_hazards.md R300). -/
inductive ResetCause where
  | powerOn | trapConflict | software | other
  deriving DecidableEq, Repr

/-- The kinds of reset that come from outside the machine (70 R300). -/
inductive ExternalReset where
  | powerOn | other
  deriving DecidableEq, Repr

/-- An accumulator (10_state.md R26). -/
inductive AccName where
  | a | b
  deriving DecidableEq, Repr

/-- What an environment delivers between two boundaries (60_exceptions.md R265). -/
inductive EnvEvent where
  /-- `SetFlag(q)` (60 R236). -/
  | setFlag (q : Source)
  /-- Pin INTn is at this level from now on (60 R237). -/
  | pin (n : Fin 5) (level : Bool)
  /-- `OscillatorFailure` (41 R207). -/
  | oscillatorFailure
  /-- The oscillator module, which owns CF, changes it (10 R45). -/
  | clockFail (value : Bool)
  /-- `DmaWriteCollision` (41 R206). -/
  | dmaCollision
  /-- A DMA write of one byte that is not ignored (20 R138). -/
  | dmaWrite (a : Word) (v : Byte)
  /-- A device reset from outside (70 R300). -/
  | reset (cause : ExternalReset)
  deriving DecidableEq, Repr

/-- Width of a data access (20_memory.md R125). -/
inductive Width where
  | byte | word
  deriving DecidableEq, Repr

/-- An effective address (20 R127): given by the environment, or computed from W15 and an offset, the
calculation being carried out without truncation (41 R191). -/
inductive EA where
  | abs (a : Word)
  | w15 (offset : Int)
  deriving DecidableEq, Repr

/-- A value an ordinary instruction writes: a literal, what the last data read delivered, or a register
with a mask or a summand (40 R165 "adding to the DISICNT register", R177 "SR OR 0x00E0"). -/
inductive Src where
  | lit (v : Word)
  | bus
  | reg (r : Reg)
  | orReg (r : Reg) (m : Word)
  | andReg (r : Reg) (m : Word)
  | addReg (r : Reg) (m : Word)
  deriving DecidableEq, Repr

/-- One effect of an instruction of the instruction environment (00_scope.md R6, R11; 41 R190 to R208). -/
inductive Action where
  /-- `SwWrite(REG, v)` (00 R11). -/
  | write (r : Reg) (v : Src)
  /-- A byte write to one half of a register (10 R62, 41 R193). -/
  | writeByte (r : Reg) (high : Bool) (v : Byte)
  /-- A one-bit write, one `SwWrite` of the register with that bit changed (70 R322). -/
  | writeBit (r : Reg) (i : Fin 16) (v : Bool)
  /-- A data read (20 R127); what it delivers is `bus` afterwards. -/
  | load (ea : EA) (width : Width)
  /-- A data write (20 R127). -/
  | store (ea : EA) (width : Width) (v : Src)
  /-- A bit manipulation instruction in indirect mode: a word read and write (41 R196). -/
  | modifyBit (ea : EA) (i : Fin 16) (v : Bool)
  /-- The X-side fetch of a MAC-class instruction (20 R127, R130). -/
  | fetchX (ea : EA)
  /-- The Y-side fetch of a MAC-class instruction (20 R127, R130). -/
  | fetchY (ea : EA)
  /-- `PUSH` of a register (40 R177, 41 R213). -/
  | push (r : Reg)
  /-- `POP` to a register (40 R177, 41 R213). -/
  | pop (r : Reg)
  /-- An accumulator operation: its result, and whether it carries out of bit 31 and of bit 39
  (41 R202, R203; 10 R30). -/
  | accOp (x : AccName) (carry31 carry39 : Bool) (result : Acc)
  /-- `SFTAC` by `amount` with the result the DSP environment computes (41 R205). By itself it leaves OA and
  OB; where a legal shift changes them, an `accOp` follows it in the same instruction (DESIGN CHOICE,
  log 23). -/
  | sftac (x : AccName) (amount : Int) (result : Acc)
  /-- Divide by zero, found in the first iteration of the `REPEAT` loop (41 R200). -/
  | divideByZero
  /-- RA, N, OV, Z, C as the CPU leaves them (10 R27). -/
  | aluStatus (v : BitVec 5)
  /-- SA, SB, OAB, SAB, DA, DC as the CPU leaves them (10 R27). -/
  | dspStatus (v : BitVec 6)
  deriving DecidableEq, Repr

/-- Where control goes after an ordinary instruction (00 R6 (b)). -/
inductive Successor where
  /-- The next instruction; `twoWords` says that this one takes two program words (30 R152). -/
  | sequential (twoWords : Bool)
  /-- An address that is no literal (`RETURN`, a computed branch). -/
  | computed (a : PAddr)
  /-- `BRA #literal` or `GOTO #literal` (41 R199). -/
  | literal (a : PAddr)
  deriving DecidableEq, Repr

/-- An instruction of the instruction environment: its effects in program order, its successor and its
cycles (60 R265, 40 R164). -/
structure OrdInstr where
  acts : List Action
  succ : Successor
  cycles : Nat
  deriving DecidableEq, Repr

end Sys2Proof.Machine
end

