-- ==== Sys2Proof/Machine/State.lean ====
section
/-! DEFINITION. The state of the machine, plain data (spec/10_state.md R20; INVENTORY.md, State), the reasons a
step stops, and the state right after reset (spec/70_reset_and_hazards.md R301). -/

namespace Sys2Proof.Machine

/-- The skid counter of a soft trap (10_state.md R49). -/
structure Skid where
  /-- Instructions that may still complete before the trap is offered to arbitration. -/
  left : Nat
  /-- Drawn in the present step, so that the end of it does not count it down (60 R228). -/
  fresh : Bool
  deriving DecidableEq, Repr

/-- The machine (10_state.md R20). Stored bits that are not implemented, and the bits the hardware holds at
0, are read through the accessors of Machine/Flags.lean and Machine/Operands.lean. -/
structure State where
  /-- PC, a program address (10 R21). -/
  pc : PAddr
  /-- W0 to W14 (10 R25). -/
  w : Vector Word 15
  /-- W15, the stack pointer (10 R23). -/
  w15 : Word
  /-- SPLIM (10 R24). -/
  splim : Word
  /-- SPLIM has been written since reset (10 R51). -/
  splimArmed : Bool
  /-- Accumulator A (10 R26). -/
  accA : Acc
  /-- Accumulator B (10 R26). -/
  accB : Acc
  /-- SR (10 R27). -/
  sr : Word
  /-- CORCON (10 R31). -/
  corcon : Word
  /-- DISICNT (10 R34). -/
  disicnt : BitVec 14
  /-- The DISI latch, INTCON2<14> (10 R47). -/
  disiLatch : Bool
  /-- INTCON1 (10 R35). -/
  intcon1 : Word
  /-- INTCON2 but for bit 14, which is `disiLatch` (10 R40). -/
  intcon2 : Word
  /-- IFS0 to IFS7 (11 R73). -/
  ifs : Vector Word 8
  /-- IEC0 to IEC7 (11 R75). -/
  iec : Vector Word 8
  /-- IPC0 to IPC29 (11 R77). -/
  ipc : Vector Word 30
  /-- RCON<15>, TRAPR (10 R44). -/
  trapr : Bool
  /-- OSCCON<3>, CF (10 R45). -/
  cf : Bool
  /-- The temporary buffer's IPL3 : PC<22:0> (10 R46; log 27). -/
  tempPc : BitVec 24
  /-- The temporary buffer's SRL (10 R46). -/
  tempSrl : Byte
  /-- The power mode (10 R48). -/
  power : PowerMode
  /-- Skid of the stack error trap (10 R49). -/
  skidStk : Skid
  /-- Skid of the math error trap (10 R49). -/
  skidMath : Skid
  /-- Skid of the DMAC error trap (10 R49). -/
  skidDmac : Skid
  /-- The last level of each pin INT0 to INT4 (10 R50). -/
  pins : BitVec 5
  /-- Data memory: bytes, addresses strictly rising; an unlisted byte has not been written (log 4). -/
  mem : List Host.Cell
  /-- Program memory: 24-bit words, addresses strictly rising (20 R123; log 5). -/
  prog : List (Nat × PWord)
  /-- The implementation parameters (00 R8); no step changes them (log 1). -/
  params : Params
  /-- What the environments deliver: the head list before the next boundary, and so on (log 6). -/
  events : List (List EnvEvent)
  /-- The next instructions of the instruction environment (log 6). -/
  ordinary : List OrdInstr
  /-- How many free values have been drawn (log 3). -/
  draws : Nat
  /-- How many device resets have left the data memory unspecified (log 4). -/
  ramEpoch : Nat
  /-- The value the last data read delivered to the instruction environment (20 R127). -/
  bus : Word
  /-- A hard trap is blocked and `HARD_TRAP_BLOCKED` is `stall` (60 R258). -/
  stalled : Bool
  /-- This step executed a `DISI` or wrote DISICNT, so it does not count (40 R164). -/
  disiLoaded : Bool
  deriving DecidableEq, Repr

/-- Why the machine stops. -/
inductive Fault where
  /-- Raised by `step` when a hard trap was raised at a level equal to the CPU priority and
  `HARD_TRAP_BLOCKED` is `stall`: there is no further step until an external reset (60_exceptions.md R258,
  93 row 12). Safe: nothing is concluded about the device in that state. -/
  | hardTrapStall
  deriving DecidableEq, Repr

/-- Why the machine has no meaning for what it should do. -/
inductive Refusal where
  /-- Raised by an arm of `exec` for an instruction without a meaning. Safe. -/
  | notModelled (mnemonic : String)
  /-- Raised by `step`: the word at the PC matches no row of the opcode table, does not execute as a `NOP`, and
  the instruction environment supplies no instruction (30_encoding.md R152, R156, 93 row 19). Safe. -/
  | outsideTable (w : PWord)
  /-- Raised by `step`: the word after a `GOTO` has one of bits 23:7 set (93 row 20). Safe. -/
  | gotoSecondWord (w : PWord)
  deriving DecidableEq, Repr

/-- Right after reset: every field at the value of 70_reset_and_hazards.md R301; where that table says
"unspecified" or "not in source", zero (DESIGN CHOICE, unsafe, log 2). -/
def State.reset : State where
  pc := 0x000000#23
  w := Vector.replicate 15 0x0000#16
  w15 := 0x0800#16
  splim := 0x0000#16
  splimArmed := false
  accA := 0#40
  accB := 0#40
  sr := 0x0000#16
  corcon := 0x0020#16
  disicnt := 0#14
  disiLatch := false
  intcon1 := 0x0000#16
  intcon2 := 0x0000#16
  ifs := Vector.replicate 8 0x0000#16
  iec := Vector.replicate 8 0x0000#16
  ipc := #v[0x4444#16, 0x4444#16, 0x4444#16, 0x0444#16, 0x4044#16, 0x4444#16, 0x4444#16, 0x4444#16,
    0x4444#16, 0x4444#16, 0x4444#16, 0x4404#16, 0x4444#16, 0x4444#16, 0x4444#16, 0x4044#16,
    0x0444#16, 0x4444#16, 0x0000#16, 0x0000#16, 0x0000#16, 0x0000#16, 0x0000#16, 0x0000#16,
    0x0000#16, 0x0000#16, 0x0000#16, 0x0000#16, 0x0000#16, 0x0000#16]
  trapr := false
  cf := false
  tempPc := 0#24
  tempSrl := 0#8
  power := .run
  skidStk := ⟨0, false⟩
  skidMath := ⟨0, false⟩
  skidDmac := ⟨0, false⟩
  pins := 0#5
  mem := []
  prog := []
  params := Params.default
  events := []
  ordinary := []
  draws := 0
  ramEpoch := 0
  bus := 0x0000#16
  stalled := false
  disiLoaded := false

end Sys2Proof.Machine
end

