-- ==== Sys2Proof/Machine/Memory.lean ====
section
/-! DEFINITION. Sparse memory in ONE canonical form, the addresses strictly rising, used for data memory
(bytes, `Host.Cell`) and program memory (24-bit words); and the address sets of the parameters. An unlisted
cell holds NO value of the list, so no entry can equal what an unlisted address reads as (log 4, log 5). -/

namespace Sys2Proof.Machine

/-- The addresses of the list rise strictly and all lie above `lo`. -/
def Memory.above {α : Type} (lo : Nat) : List (Nat × α) → Bool
  | [] => true
  | (a, _) :: rest => decide (lo < a) && Memory.above a rest

/-- The canonical form: addresses strictly rising. -/
def Memory.wf {α : Type} : List (Nat × α) → Bool
  | [] => true
  | (a, _) :: rest => Memory.above a rest

/-- What the list holds at an address. -/
def Memory.lookup {α : Type} : List (Nat × α) → Nat → Option α
  | [], _ => none
  | (a, v) :: rest, x => if a = x then some v else Memory.lookup rest x

/-- Writing a cell. -/
def Memory.store {α : Type} : List (Nat × α) → Nat → α → List (Nat × α)
  | [], x, v => [(x, v)]
  | (a, u) :: rest, x, v =>
    if x < a then (x, v) :: (a, u) :: rest
    else if x = a then (a, v) :: rest
    else (a, u) :: Memory.store rest x v

/-- Changing every cell by a function of its address and value. -/
def Memory.mapCells {α : Type} (f : Nat → α → α) : List (Nat × α) → List (Nat × α)
  | [] => []
  | (a, v) :: rest => (a, f a v) :: Memory.mapCells f rest

/-- Membership in an address set given as closed ranges (00_scope.md R8). -/
def inRanges (rs : List (Nat × Nat)) (a : Nat) : Bool :=
  rs.any fun r => decide (r.1 ≤ a) && decide (a ≤ r.2)

/-- The reset address and both vector tables, 0x000000 to 0x0001FE, implemented on every device
(20_memory.md R124). -/
def progFixed (a : Nat) : Bool := decide (a ≤ 0x0001FE)

/-- `PROG_IMPL(a)` (20_memory.md R124). -/
def progImplemented (s : State) (a : Nat) : Bool := progFixed a || inRanges s.params.progImpl a

/-- The registers of Table 6-2, 0x0080 to 0x00DF (20_memory.md R126, R130). -/
def dataFixed (a : Nat) : Bool := decide (0x0080 ≤ a) && decide (a ≤ 0x00DF)

/-- `DATA_IMPL(a)` (20_memory.md R130). -/
def dataImplemented (s : State) (a : Nat) : Bool := dataFixed a || inRanges s.params.dataImpl a

/-- `ProgRead24(a)` (20_memory.md R123), called at implemented addresses only (20 R124); a word that is not
programmed is a free value (log 5). -/
def progRead24 (s : State) (a : Nat) : PWord := (Memory.lookup s.prog a).getD (Config.progFree a)

/-- A byte of implemented data RAM; one that nothing has written is a free value (log 4). -/
def ramByte (s : State) (a : Nat) : Byte :=
  (Memory.lookup s.mem a).getD (Config.ramFree s.ramEpoch a)

/-- Writing a byte of data RAM. -/
def setRamByte (a : Nat) (v : Byte) (s : State) : State :=
  { s with mem := Memory.store s.mem a v }

/-- The word made of the byte at an even address and the byte after it (20_memory.md R132). -/
def joinBytes (order : ByteOrder) (first second : Byte) : Word :=
  match order with
  | .little => second ++ first
  | .big => first ++ second

/-- The byte of a word that lies at its even address, and the byte after it (20_memory.md R132). -/
def splitWord (order : ByteOrder) (v : Word) : Byte × Byte :=
  match order with
  | .little => (v.extractLsb' 0 8, v.extractLsb' 8 8)
  | .big => (v.extractLsb' 8 8, v.extractLsb' 0 8)

/-- A word of data RAM at an even address (20_memory.md R125, R132). -/
def ramWord (s : State) (a : Nat) : Word :=
  joinBytes s.params.byteOrder (ramByte s a) (ramByte s (a + 1))

/-- Writing a word of data RAM at an even address (20_memory.md R125, R132). -/
def setRamWord (a : Nat) (v : Word) (s : State) : State :=
  let parts := splitWord s.params.byteOrder v
  setRamByte (a + 1) parts.2 (setRamByte a parts.1 s)

end Sys2Proof.Machine
end

