-- ==== Sys2Proof/Machine/Flags.lean ====
section
/-! DEFINITION. The fields of the status and control registers: bits, the CPU priority level, the trap status
bits, the flag, enable and priority of each interrupt source (spec/10_state.md, 11 R70). -/

namespace Sys2Proof.Machine

/-- A 16-bit register with bit `i` set to `b`. -/
def putBit (v : Word) (i : Nat) (b : Bool) : Word :=
  if b then v ||| BitVec.twoPow 16 i else v &&& ~~~(BitVec.twoPow 16 i)

/-- The address with its bit 0 at 0 (20_memory.md R133). -/
def evenPc (a : PAddr) : PAddr := a &&& 0x7FFFFE#23

/-- The PC; its bit 0 is always 0 (10_state.md R21). -/
def curPc (s : State) : PAddr := evenPc s.pc

/-- `pc <- target` (00_scope.md R11); bit 0 has no place in the PC (60 R248). -/
def setPc (a : PAddr) (s : State) : State := { s with pc := evenPc a }

/-- W15; its bit 0 is held at 0 (60_exceptions.md R250). -/
def sp (s : State) : Word := s.w15 &&& 0xFFFE#16

/-- A write of W15 stores v[15:1] : 0 (60_exceptions.md R250). -/
def setSp (v : Word) (s : State) : State := { s with w15 := v &&& 0xFFFE#16 }

/-- The program address `n` after `a`; past the top of program space it is a free value (10 R22; log 10). -/
def pcPlus (a : PAddr) (n : Nat) : PAddr :=
  if a.toNat + n < 2 ^ 23 then a + BitVec.ofNat 23 n else evenPc (Config.pcPastTop a)

/-- `pc <- pc + n`. -/
def advancePc (n : Nat) (s : State) : State := setPc (pcPlus (curPc s) n) s

/-- A free value has been drawn (log 3). -/
def countDraw (s : State) : State := { s with draws := s.draws + 1 }

/-- What a data read delivers to the instruction environment (20_memory.md R127). -/
def setBus (v : Word) (s : State) : State := { s with bus := v }

/-! ### SR and CORCON -/

/-- SR written by hardware (00_scope.md R11). -/
def setSr (v : Word) (s : State) : State := { s with sr := v }

/-- SRL, SR<7:0> (10_state.md R29). -/
def srl (s : State) : Byte := s.sr.extractLsb' 0 8

/-- SR with its low byte replaced (10_state.md R29). -/
def withSrl (b : Byte) (sr : Word) : Word := sr.extractLsb' 8 8 ++ b

/-- IPL<2:0>, SR<7:5> (10_state.md R28). -/
def ipl (s : State) : BitVec 3 := s.sr.extractLsb' 5 3

/-- SR with IPL<2:0> replaced (10_state.md R28). -/
def withIpl (v : BitVec 3) (sr : Word) : Word :=
  sr.extractLsb' 8 8 ++ (v ++ sr.extractLsb' 0 5)

/-- IPL3, CORCON<3> (10_state.md R32). -/
def ipl3 (s : State) : Bool := s.corcon.getLsbD 3

/-- `cpu_ipl`, the 4-bit number CORCON[3] : SR[7:5] (10_state.md R33). -/
def cpuIpl (s : State) : BitVec 4 := BitVec.ofBool (ipl3 s) ++ ipl s

/-- OA, SR<15> (10_state.md R30). -/
def oa (s : State) : Bool := s.sr.getLsbD 15

/-- OB, SR<14> (10_state.md R30). -/
def ob (s : State) : Bool := s.sr.getLsbD 14

/-! ### INTCON1 and INTCON2 -/

/-- NSTDIS, INTCON1<15> (10_state.md R36). -/
def nstdis (s : State) : Bool := s.intcon1.getLsbD 15

/-- OVATE, INTCON1<10> (10_state.md R38). -/
def ovate (s : State) : Bool := s.intcon1.getLsbD 10

/-- OVBTE, INTCON1<9> (10_state.md R38). -/
def ovbte (s : State) : Bool := s.intcon1.getLsbD 9

/-- COVTE, INTCON1<8> (10_state.md R38). -/
def covte (s : State) : Bool := s.intcon1.getLsbD 8

/-- A bit of INTCON1 set by hardware (10_state.md R37, R39). -/
def setIntcon1Bit (i : Nat) (s : State) : State := { s with intcon1 := putBit s.intcon1 i true }

/-- ALTIVT, INTCON2<15> (10_state.md R41). -/
def altivt (s : State) : Bool := s.intcon2.getLsbD 15

/-- INTnEP, INTCON2<n> (10_state.md R43). -/
def edgeNegative (s : State) (n : Fin 5) : Bool := s.intcon2.getLsbD n.val

/-! ### Traps (60_exceptions.md R222, R225, R227) -/

/-- The position of the trap's status bit in INTCON1 (60 R222). -/
def Trap.statusBit : Trap → Nat
  | .oscFail => 1
  | .stkErr => 2
  | .addrErr => 3
  | .mathErr => 4
  | .dmacErr => 5

/-- The trap's fixed level (60 R227). -/
def Trap.level : Trap → BitVec 4
  | .oscFail => 14
  | .addrErr => 13
  | .stkErr => 12
  | .mathErr => 11
  | .dmacErr => 10

/-- The trap's vector number (60 R227). -/
def Trap.vector : Trap → Nat
  | .oscFail => 1
  | .addrErr => 2
  | .stkErr => 3
  | .mathErr => 4
  | .dmacErr => 5

/-- Hard traps have levels 13 to 15 (60 R229). -/
def Trap.hard : Trap → Bool
  | .oscFail => true
  | .addrErr => true
  | .stkErr => false
  | .mathErr => false
  | .dmacErr => false

/-- The five traps, the greatest level first (60 R231). -/
def allTraps : List Trap := [.oscFail, .addrErr, .stkErr, .mathErr, .dmacErr]

/-- The trap is pending: its status bit is 1 (60 R226). -/
def trapPending (t : Trap) (s : State) : Bool := s.intcon1.getLsbD t.statusBit

/-- `skid(t)`; a hard trap has none (60 R228, R229). -/
def skidLeft (t : Trap) (s : State) : Nat :=
  match t with
  | .oscFail => 0
  | .addrErr => 0
  | .stkErr => s.skidStk.left
  | .mathErr => s.skidMath.left
  | .dmacErr => s.skidDmac.left

/-- Replacing the skid counter of a soft trap. -/
def setSkid (t : Trap) (k : Skid) (s : State) : State :=
  match t with
  | .oscFail => s
  | .addrErr => s
  | .stkErr => { s with skidStk := k }
  | .mathErr => { s with skidMath := k }
  | .dmacErr => { s with skidDmac := k }

/-! ### Interrupt sources (11_interrupt_source_registers.md R70, R71) -/

/-- `IMPLEMENTED(q)` (11 R71). -/
def sourceImplemented (p : Params) (q : Source) : Bool := p.implemented.getLsbD q.val

/-- The implemented bits of IFSn and of IECn (11 R72). -/
def flagMask (p : Params) (n : Nat) : Word := p.implemented.extractLsb' (16 * n) 16

/-- The implemented bits of IPCn: the low three of each nibble whose source is implemented (11 R72, R77). -/
def priorityMask (p : Params) (n : Nat) : Word :=
  let field (k : Nat) : BitVec 4 := if p.implemented.getLsbD (4 * n + k) then 7#4 else 0#4
  field 3 ++ (field 2 ++ (field 1 ++ field 0))

/-- IFSn as read: unimplemented bits read 0 (10 R61). -/
def ifsRead (s : State) (n : Fin 8) : Word := s.ifs[n] &&& flagMask s.params n.val

/-- IECn as read: unimplemented bits read 0 (10 R61). -/
def iecRead (s : State) (n : Fin 8) : Word := s.iec[n] &&& flagMask s.params n.val

/-- IPCn as read: unimplemented bits read 0 (10 R61). -/
def ipcRead (s : State) (n : Fin 30) : Word := s.ipc[n] &&& priorityMask s.params n.val

/-- The number of the IFS and IEC register of a source (11 R70). -/
def Source.flagReg (q : Source) : Fin 8 := ⟨q.val / 16, by omega⟩

/-- The number of the IPC register of a source (11 R70). -/
def Source.priorityReg (q : Source) : Fin 30 := ⟨q.val / 4, by omega⟩

/-- `IF(q)` (11 R70). -/
def flagOf (s : State) (q : Source) : Bool := (ifsRead s (Source.flagReg q)).getLsbD (q.val % 16)

/-- `IE(q)` (11 R70). -/
def enableOf (s : State) (q : Source) : Bool := (iecRead s (Source.flagReg q)).getLsbD (q.val % 16)

/-- `IP(q)`, 3 bits (11 R70). -/
def priorityOf (s : State) (q : Source) : BitVec 3 :=
  (ipcRead s (Source.priorityReg q)).extractLsb' (4 * (q.val % 4)) 3

/-- `IF(q) <- 1` by hardware, for an implemented source (60_exceptions.md R236). -/
def setFlag (q : Source) (s : State) : State :=
  if sourceImplemented s.params q then
    let n := Source.flagReg q
    { s with ifs := s.ifs.set n.val (putBit s.ifs[n] (q.val % 16) true) n.isLt }
  else s

/-- Vector number of a source (11 R70). -/
def Source.vector (q : Source) : Nat := q.val + 8

/-- Address of entry V of the vector table in use (60_exceptions.md R221, R248). -/
def vectorAddr (alternate : Bool) (v : Nat) : Nat := (if alternate then 0x000104 else 0x000004) + 2 * v

end Sys2Proof.Machine
end

