-- ==== Sys2Proof/Machine/Operands.lean ====
section
/-! DEFINITION. Reading and writing registers by software (`SwWrite`, spec/00_scope.md R11), data space with
the registers in it (20_memory.md R125, R126, R130), effective addresses and source operands of the
instruction environment. -/

namespace Sys2Proof.Machine

/-! ### Registers as software reads them (10_state.md R61, R62) -/

/-- Reading W0 to W15. -/
def readW (i : Fin 16) (s : State) : Word :=
  if h : i.val < 15 then s.w[i.val] else sp s

/-- Writing W0 to W15 (60 R250 for W15). -/
def writeW (i : Fin 16) (v : Word) (s : State) : State :=
  if h : i.val < 15 then { s with w := s.w.set i.val v h } else setSp v s

/-- A register as software reads it; a bit with legend U reads 0 (10 R61), a read has no side effect (10 R62).
RCON and OSCCON: the bit the source names, the others free (log 21). -/
def readReg (r : Reg) (s : State) : Word :=
  match r with
  | .sr => s.sr
  | .corcon => s.corcon &&& 0x1FFF#16
  | .disicnt => s.disicnt.setWidth 16
  | .splim => s.splim
  | .rcon => BitVec.ofBool s.trapr ++ Config.rconRest s.draws
  | .osccon => putBit (Config.oscconRest s.draws) 3 s.cf
  | .intcon1 => s.intcon1 &&& 0xFFFE#16
  | .intcon2 => putBit (s.intcon2 &&& 0x801F#16) 14 s.disiLatch
  | .ifs n => ifsRead s n
  | .iec n => iecRead s n
  | .ipc n => ipcRead s n
  | .w i => readW i s

/-! ### `SwWrite` (00_scope.md R11) -/

/-- SR after a software write: IPL<2:0> unless NSTDIS = 1, N, OV, Z, C; SA, SB, SAB can be cleared and not
set, the other bits are read-only (10 R27, R28; 40 R176; log 22). -/
def srWritten (s : State) (v : Word) : Word :=
  let clearable := 0x3400#16
  let writable := if nstdis s then 0x000F#16 else 0x00EF#16
  (s.sr &&& ~~~(clearable ||| writable)) ||| (s.sr &&& v &&& clearable) ||| (v &&& writable)

/-- CORCON after a software write: IPL3 can be cleared and not set, DL is read-only, bits 15:13 are not
implemented (10 R31, R32; 40 R178; log 22). Nothing else writes DL: what the CPU itself does to it is not in
the source (DESIGN CHOICE, log 22). -/
def corconWritten (s : State) (v : Word) : Word :=
  (s.corcon &&& 0x0700#16) ||| (s.corcon &&& v &&& 0x0008#16) ||| (v &&& 0x18F7#16)

/-- The condition that keeps MATHERR at 1 (41 R204). -/
def mathErrBlocked (s : State) : Bool := (ovate s && oa s) || (ovbte s && ob s)

/-- INTCON1 after a software write: bit 0 is not implemented; a write of 0 to MATHERR while it is blocked
leaves MATHERR 1 (10 R35, R37, R39; 41 R204). -/
def intcon1Written (s : State) (v : Word) : Word :=
  if mathErrBlocked s && trapPending .mathErr s then putBit (v &&& 0xFFFE#16) 4 true else v &&& 0xFFFE#16

/-- A soft trap whose status bit is 0 is not pending and has no skid (60 R226, R228; log 9). Where software writes
1 to a status bit that hardware has set and whose skid still runs, the spec does not say what becomes of the skid:
it runs on (DESIGN CHOICE, log 9). -/
def dropSkid (t : Trap) (s : State) : State :=
  if trapPending t s then s else setSkid t ⟨0, false⟩ s

/-- `SwWrite(REG, v)`, a 16-bit write by an instruction (00 R11), with the write rules of each register. -/
def swWrite (r : Reg) (v : Word) (s : State) : State :=
  match r with
  | .sr => { s with sr := srWritten s v }
  | .corcon => { s with corcon := corconWritten s v }
  | .disicnt =>
    { s with
      disicnt := v.extractLsb' 0 14
      disiLatch := s.disiLatch && v.extractLsb' 0 14 != 0#14
      disiLoaded := true }
  | .splim => { s with splim := v, splimArmed := true }
  | .rcon => { s with trapr := Config.traprAfterWrite s.draws v s.trapr }
  | .osccon => { s with cf := Config.cfAfterWrite s.draws v s.cf }
  | .intcon1 =>
    dropSkid .stkErr (dropSkid .mathErr (dropSkid .dmacErr { s with intcon1 := intcon1Written s v }))
  | .intcon2 => { s with intcon2 := v &&& 0x801F#16 }
  | .ifs n => { s with ifs := s.ifs.set n.val (v &&& flagMask s.params n.val) n.isLt }
  | .iec n => { s with iec := s.iec.set n.val (v &&& flagMask s.params n.val) n.isLt }
  | .ipc n => { s with ipc := s.ipc.set n.val (v &&& priorityMask s.params n.val) n.isLt }
  | .w i => writeW i v s

/-- A word with one half replaced. -/
def mergeByte (high : Bool) (b : Byte) (old : Word) : Word :=
  if high then b ++ old.extractLsb' 0 8 else old.extractLsb' 8 8 ++ b

/-- A byte write to a register: a 16-bit write that keeps the other half (10 R62), but a byte write does not
arm SPLIM (41 R193), and reaches TRAPR or CF only in their half of RCON or OSCCON (log 21). -/
def swWriteByte (r : Reg) (high : Bool) (b : Byte) (s : State) : State :=
  match r with
  | .splim => { s with splim := mergeByte high b s.splim }
  | .rcon => if high then swWrite .rcon (mergeByte high b (readReg .rcon s)) s else s
  | .osccon => if high then s else swWrite .osccon (mergeByte high b (readReg .osccon s)) s
  | .sr => swWrite .sr (mergeByte high b (readReg .sr s)) s
  | .corcon => swWrite .corcon (mergeByte high b (readReg .corcon s)) s
  | .disicnt => swWrite .disicnt (mergeByte high b (readReg .disicnt s)) s
  | .intcon1 => swWrite .intcon1 (mergeByte high b (readReg .intcon1 s)) s
  | .intcon2 => swWrite .intcon2 (mergeByte high b (readReg .intcon2 s)) s
  | .ifs n => swWrite (.ifs n) (mergeByte high b (readReg (.ifs n) s)) s
  | .iec n => swWrite (.iec n) (mergeByte high b (readReg (.iec n) s)) s
  | .ipc n => swWrite (.ipc n) (mergeByte high b (readReg (.ipc n) s)) s
  | .w i => swWrite (.w i) (mergeByte high b (readReg (.w i) s)) s

/-- A one-bit write: a `SwWrite` that changes the one bit (70 R322; 30 R158). -/
def swWriteBit (r : Reg) (i : Fin 16) (b : Bool) (s : State) : State :=
  swWrite r (putBit (readReg r s) i.val b) s

/-- A register that lies in data space: every one but W0 to W15, which an instruction names in its own
fields (log 18). -/
def Reg.inDataSpace : Reg → Bool
  | .w _ => false
  | .sr | .corcon | .disicnt | .splim | .rcon | .osccon => true
  | .intcon1 | .intcon2 | .ifs _ | .iec _ | .ipc _ => true

/-! ### Data space -/

/-- The register a CPU register address stands for (10 R60). -/
def CpuReg.reg : CpuReg → Reg
  | .w15 => .w 15
  | .splim => .splim
  | .sr => .sr
  | .corcon => .corcon
  | .disicnt => .disicnt
  | .rcon => .rcon
  | .osccon => .osccon

/-- The register at an even data address: Table 6-2 (10 R60, 11 R72), then the parameter `SFR_ADDR_CPU`. -/
def regAt (p : Params) (a : Nat) : Option Reg :=
  if a = 0x0080 then some .intcon1
  else if a = 0x0082 then some .intcon2
  else if h : 0x0084 ≤ a ∧ a ≤ 0x0092 then some (.ifs ⟨(a - 0x0084) / 2, by omega⟩)
  else if h : 0x0094 ≤ a ∧ a ≤ 0x00A2 then some (.iec ⟨(a - 0x0094) / 2, by omega⟩)
  else if h : 0x00A4 ≤ a ∧ a ≤ 0x00DE then some (.ipc ⟨(a - 0x00A4) / 2, by omega⟩)
  else (Memory.lookup p.cpuRegs a).map CpuReg.reg

/-- What stands at a data address. -/
inductive Place where
  | reg (r : Reg)
  | ram
  | absent
  deriving DecidableEq, Repr

/-- What stands at a data address: the register whose two bytes hold it, implemented RAM, or nothing
(20 R126, R130; log 14). -/
def placeOf (s : State) (a : Nat) : Place :=
  match regAt s.params (a - a % 2) with
  | some r => .reg r
  | none => if dataImplemented s a then .ram else .absent

/-- The byte at address `a` is the high half of its word (20 R132). -/
def highHalf (order : ByteOrder) (a : Nat) : Bool :=
  match order with
  | .little => a % 2 == 1
  | .big => a % 2 == 0

/-- `MemRead(a, 2)` at an even address; nothing there delivers any value (41 R197). -/
def readDataWord (s : State) (a : Nat) : Word :=
  match placeOf s a with
  | .reg r => readReg r s
  | .ram => ramWord s a
  | .absent => Config.openWord s.draws

/-- `MemRead(a, 1)`. -/
def readDataByte (s : State) (a : Nat) : Byte :=
  match placeOf s a with
  | .reg r =>
    if highHalf s.params.byteOrder a then (readReg r s).extractLsb' 8 8 else (readReg r s).extractLsb' 0 8
  | .ram => ramByte s a
  | .absent => (Config.openWord s.draws).extractLsb' 0 8

/-- `MemWrite(a, 2, v)` at an even address; a write to nothing vanishes (41 R197). -/
def writeDataWord (a : Nat) (v : Word) (s : State) : State :=
  match placeOf s a with
  | .reg r => swWrite r v s
  | .ram => setRamWord a v s
  | .absent => s

/-- `MemWrite(a, 1, v)`; a write to nothing vanishes (41 R197). -/
def writeDataByte (a : Nat) (v : Byte) (s : State) : State :=
  match placeOf s a with
  | .reg r => swWriteByte r (highHalf s.params.byteOrder a) v s
  | .ram => setRamByte a v s
  | .absent => s

/-- A word fetch at `a` on the X side of a MAC-class instruction is to implemented memory (20 R130). -/
def xImplemented (s : State) (a : Nat) : Bool :=
  dataImplemented s a && inRanges s.params.xSpace a && !inRanges s.params.ySpace a

/-- A word fetch at `a` on the Y side of a MAC-class instruction is to implemented memory (20 R130). -/
def yImplemented (s : State) (a : Nat) : Bool :=
  dataImplemented s a && inRanges s.params.ySpace a && !inRanges s.params.xSpace a

/-! ### Effective addresses and source operands -/

/-- The effective address without truncation (41 R191). -/
def EA.full (s : State) : EA → Int
  | .abs a => a.toNat
  | .w15 offset => (sp s).toNat + offset

/-- The 16-bit effective address, `full mod 0x10000` (41 R191). -/
def EA.addr (s : State) (ea : EA) : Word := BitVec.ofInt 16 (ea.full s)

/-- The effective address is formed from W15 (41 R191). -/
def EA.viaW15 : EA → Bool
  | .abs _ => false
  | .w15 _ => true

/-- The stack error condition of a W15-based access: a wrap over the end of data space, an EA above an armed
SPLIM, an EA below 0x0800 (41 R191). -/
def stackViolation (s : State) (full : Int) (ea : Word) : Bool :=
  decide (0xFFFF < full) || (s.splimArmed && decide (s.splim < ea)) || decide (ea < 0x0800#16)

/-- The value of a source operand. -/
def Src.value (s : State) : Src → Word
  | .lit v => v
  | .bus => s.bus
  | .reg r => readReg r s
  | .orReg r m => readReg r s ||| m
  | .andReg r m => readReg r s &&& m
  | .addReg r m => readReg r s + m

end Sys2Proof.Machine
end

