-- ==== Sys2Proof/Machine/Ops.lean ====
section
/-! DEFINITION. The shared operations: device reset, raising a trap, TAKING AN EXCEPTION and the RETURN from
one, the W15-based push and pop, the count of DISICNT and of the skids
(spec/60_exceptions.md, 40_interrupt_control_instructions.md, 70_reset_and_hazards.md). -/

namespace Sys2Proof.Machine

/-! ### Device reset (70_reset_and_hazards.md R300, R301) -/

/-- TRAPR after a reset: set by a hard-trap conflict, unchanged by `RESET`, otherwise not in the source
(93 row 11, 40 R173). -/
def traprAfter (cause : ResetCause) (s : State) : Bool :=
  match cause with
  | .trapConflict => true
  | .software => s.trapr
  | .powerOn => Config.traprAfterReset s.draws s.trapr
  | .other => Config.traprAfterReset s.draws s.trapr

/-- W0 to W14 after a reset: any value (70 R301). -/
def wAfterReset (s : State) : Vector Word 15 :=
  Vector.ofFn fun i => Config.wAfterReset s.draws i.val s.w[i]

/-- IPC0 to IPC29 after a reset: 100 in every implemented field (11 R72). -/
def ipcAfterReset (p : Params) : Vector Word 30 :=
  Vector.ofFn fun i => priorityMask p i.val &&& 0x4444#16

/-- `DeviceReset(cause)` (70 R300): the registers of 70 R301 at their reset values, what that table leaves
unspecified free (log 3); program memory, the parameters and the environments' queues stay. -/
def deviceReset (cause : ResetCause) (s : State) : State :=
  { s with
    pc := 0x000000#23
    w := wAfterReset s
    w15 := 0x0800#16
    splim := Config.splimAfterReset s.draws s.splim
    splimArmed := false
    accA := Config.accAAfterReset s.draws s.accA
    accB := Config.accBAfterReset s.draws s.accB
    sr := 0x0000#16
    corcon := 0x0020#16
    disicnt := 0#14
    disiLatch := false
    intcon1 := 0x0000#16
    intcon2 := 0x0000#16
    ifs := Vector.replicate 8 0x0000#16
    iec := Vector.replicate 8 0x0000#16
    ipc := ipcAfterReset s.params
    trapr := traprAfter cause s
    cf := Config.cfAfterReset s.draws s.cf
    tempPc := 0#24
    tempSrl := 0#8
    power := .run
    skidStk := ⟨0, false⟩
    skidMath := ⟨0, false⟩
    skidDmac := ⟨0, false⟩
    pins := Config.pinsAfterReset s.draws s.pins
    mem := Memory.mapCells (Config.ramAfterReset s.draws) s.mem
    draws := s.draws + 1
    ramEpoch := s.ramEpoch + 1
    stalled := false
    disiLoaded := false }

/-! ### Raising a trap (60_exceptions.md R225 to R228, R257, R258) -/

/-- A state, and whether a device reset has cut off what was going on (60 R257 "The reset is immediate"). -/
structure Flow where
  state : State
  reset : Bool
  deriving DecidableEq, Repr

/-- Going on unless a device reset has cut it off. -/
def Flow.andThen (f : Flow) (k : State → Flow) : Flow :=
  if f.reset then f else k f.state

/-- The skid drawn when hardware sets the status bit of a soft trap, 0 to `SOFT_TRAP_SKID` (60 R228). -/
def drawnSkid (s : State) : Nat := Config.skidDraw s.draws % (s.params.softTrapSkid + 1)

/-- `raise Trap(t)` by hardware for a soft trap: the status bit, and the skid if the bit was 0 (60 R225). -/
def raiseSoft (t : Trap) (s : State) : State :=
  if trapPending t s then s
  else countDraw (setSkid t ⟨drawnSkid s, true⟩ (setIntcon1Bit t.statusBit s))

/-- The hard-trap conflict of 60 R257: the CPU priority, or a pending trap, is above the trap's level. -/
def hardTrapConflict (t : Trap) (s : State) : Bool :=
  decide (t.level < cpuIpl s) || allTraps.any fun u => decide (t.level < u.level) && trapPending u s

/-- `raise Trap(t)` by hardware for a hard trap, with the tests of 60 R257 and R258. -/
def raiseHard (t : Trap) (s : State) : Flow :=
  if hardTrapConflict t s then ⟨deviceReset .trapConflict s, true⟩
  else if t.level = cpuIpl s then
    match s.params.hardTrapBlocked with
    | .reset => ⟨deviceReset .trapConflict s, true⟩
    | .stall => ⟨{ setIntcon1Bit t.statusBit s with stalled := true }, false⟩
  else ⟨setIntcon1Bit t.statusBit s, false⟩

/-- A math error: its detail bit and MATHERR (41 R201). -/
def raiseMath (detail : Nat) (s : State) : State := raiseSoft .mathErr (setIntcon1Bit detail s)

/-! ### The stack (41_trap_raising_instructions.md R191, R213; 60 R246, R249) -/

/-- The check of a W15-based effective address (41 R191). -/
def stackCheck (full : Int) (ea : Word) (s : State) : State :=
  if stackViolation s full ea then raiseSoft .stkErr s else s

/-- A word pushed at W15, which then goes up by 2 (41 R213). The access is made, then the trap is raised if
the address, judged before the access, fails the check (41 R191; log 16). -/
def pushWord (check : Bool) (v : Word) (s : State) : State :=
  let written := writeDataWord (sp s).toNat v s
  let checked := if check && stackViolation s (sp s).toNat (sp s) then raiseSoft .stkErr written else written
  setSp (sp checked + 2#16) checked

/-- What a pop leaves: the word, the state, and whether it read nothing (41 R197). -/
structure Popped where
  value : Word
  flow : Flow
  absent : Bool
  deriving DecidableEq, Repr

/-- W15 goes down by 2 and the word there is read (41 R213), with the checks of 41 R191 and R197
(log 17). -/
def popWord (s : State) : Popped :=
  let lowered := setSp (sp s - 2#16) s
  let ea := sp lowered
  let checked := stackCheck ea.toNat ea (countDraw lowered)
  let absent := placeOf lowered ea.toNat == .absent
  ⟨readDataWord lowered ea.toNat, if absent then raiseHard .addrErr checked else ⟨checked, false⟩, absent⟩

/-! ### Exception entry (60_exceptions.md R245 to R249) -/

/-- The capture of the PC, IPL3 and SRL in the temporary buffer (60 R245 step 1, 10 R46; log 27). -/
def captureReturn (s : State) : State :=
  { s with tempPc := BitVec.ofBool (ipl3 s) ++ curPc s, tempSrl := srl s }

/-- The first word of the frame, PC<15:0> (60 R246). -/
def frameLow (s : State) : Word := s.tempPc.extractLsb' 0 16

/-- The second word of the frame, SRL : IPL3 : PC<22:16> (60 R246). -/
def frameHigh (s : State) : Word := s.tempSrl ++ s.tempPc.extractLsb' 16 8

/-- The two pushes of entry, from the temporary buffer (60 R245 step 2, R246, R249). -/
def pushFrame (s : State) : State :=
  let check := s.params.excPushStackCheck == .checked
  let first := pushWord check (frameLow s) s
  pushWord check (frameHigh s) first

/-- The CPU priority after entry (60 R245 step 3, R247): a trap sets IPL3 and IPL<2:0> to its level less 8,
an interrupt sets IPL<2:0> to its level, or to 7 with NSTDIS. -/
def enterPriority (kind : Kind) (level : BitVec 4) (s : State) : State :=
  match kind with
  | .trap =>
    { s with corcon := putBit s.corcon 3 true, sr := withIpl ((level - 8#4).extractLsb' 0 3) s.sr }
  | .interrupt =>
    { s with sr := withIpl (if nstdis s then 7#3 else level.extractLsb' 0 3) s.sr }

/-- The vector fetch (60 R245 step 4, R248): pc <- v[22:1] : 0. -/
def fetchVector (v : Nat) (s : State) : State :=
  setPc ((progRead24 s (vectorAddr (altivt s) v)).extractLsb' 0 23) s

/-- `TakeException(V, L, kind)` (60 R245). -/
def takeException (v : Nat) (level : BitVec 4) (kind : Kind) (s : State) : State :=
  fetchVector v (enterPriority kind level (pushFrame (captureReturn s)))

/-! ### Return (40_interrupt_control_instructions.md R170) -/

/-- SR<7:0>, CORCON<3> and the PC from the two words popped (40 R170). -/
def restoreFrame (high low : Word) (s : State) : State :=
  setPc (high.extractLsb' 0 7 ++ (low.extractLsb' 1 15 ++ 0#1))
    { s with sr := withSrl (high.extractLsb' 8 8) s.sr, corcon := putBit s.corcon 3 (high.getLsbD 7) }

/-- The return from an exception: two pops, then the restore, unless a device reset cuts it off. -/
def returnFromException (s : State) : Flow :=
  let high := popWord s
  high.flow.andThen fun s1 =>
    let low := popWord s1
    low.flow.andThen fun s2 => ⟨restoreFrame high.value low.value s2, false⟩

/-! ### Counting at the end of a step -/

/-- DISICNT and the DISI latch after `cycles` instruction cycles (40 R164). -/
def countDisi (cycles : Nat) (s : State) : State :=
  if s.disiLoaded then s
  else if s.disicnt = 0#14 then { s with disiLatch := false }
  else
    let left := s.disicnt.toNat - cycles
    { s with disicnt := BitVec.ofNat 14 left, disiLatch := s.disiLatch && left != 0 }

/-- A skid at the end of an instruction that completed (60 R228). -/
def Skid.countdown (k : Skid) : Skid := if k.fresh then k else ⟨k.left - 1, false⟩

/-- The three skids at the end of an instruction that completed (60 R228, R265). -/
def countSkids (s : State) : State :=
  { s with
    skidStk := s.skidStk.countdown
    skidMath := s.skidMath.countdown
    skidDmac := s.skidDmac.countdown }

/-- The marks of the present step taken away. -/
def clearMarks (s : State) : State :=
  { s with
    skidStk := ⟨s.skidStk.left, false⟩
    skidMath := ⟨s.skidMath.left, false⟩
    skidDmac := ⟨s.skidDmac.left, false⟩
    disiLoaded := false }

end Sys2Proof.Machine
end

