-- ==== Sys2Proof/Machine/InterruptControl.lean ====
section
/-! DEFINITION. The meanings of `DISI` and `RETFIE` (spec/40_interrupt_control_instructions.md R160 to R171). -/

namespace Sys2Proof.Machine

/-- The DISI latch after `DISI #lit14` (40 R162, R166). -/
def disiLatchAfter (lit14 : BitVec 14) (p : Params) : Bool :=
  if lit14 = 0#14 then p.disiZero == .oneBoundary else true

/-- `DISI #lit14` (40 R162, R166): DISICNT and the DISI latch; the step does not count (40 R164). -/
def execDisi (lit14 : BitVec 14) (s : State) : Host.Outcome State Fault Refusal :=
  .next (advancePc 2
    { s with disicnt := lit14, disiLatch := disiLatchAfter lit14 s.params, disiLoaded := true })

/-- `RETFIE` (40 R170). -/
def execRetfie (s : State) : Host.Outcome State Fault Refusal :=
  .next (returnFromException s).state

end Sys2Proof.Machine
end

