-- ==== Sys2Proof/Machine/Arbitration.lean ====
section
/-! DEFINITION. Readiness, arbitration and wake-up (spec/60_exceptions.md R227, R239 to R242, R262, R263). -/

namespace Sys2Proof.Machine

/-- `trap_ready(t)` (60 R227). -/
def trapReady (t : Trap) (s : State) : Bool :=
  trapPending t s && decide (cpuIpl s < t.level) && (t.hard || skidLeft t s == 0)

/-- `int_req(q)` (60 R239). -/
def intReq (s : State) (q : Source) : Bool :=
  sourceImplemented s.params q && flagOf s q && enableOf s q

/-- `masked_by_disi(q)` (60 R241). -/
def maskedByDisi (s : State) (q : Source) : Bool :=
  s.disiLatch && decide (priorityOf s q ≤ 6#3)

/-- `int_ready(q)` (60 R239): the comparison is strict and with the 4-bit `cpu_ipl`. -/
def intReady (s : State) (q : Source) : Bool :=
  intReq s q && decide (cpuIpl s < (priorityOf s q).setWidth 4) && !maskedByDisi s q

/-- Among the sources of a list, one of greatest priority that is ready, the first of equals (60 R240). -/
def bestOf (s : State) : List Source → Option Source
  | [] => none
  | q :: rest =>
    match bestOf s rest with
    | none => if intReady s q then some q else none
    | some r => if intReady s q && decide (priorityOf s r ≤ priorityOf s q) then some q else some r

/-- The winner of 60 R240: the ready source of greatest `IP(q)`, among those the least q. -/
def winner (s : State) : Option Source := bestOf s (List.finRange 118)

/-- The ready trap of greatest level (60 R231). -/
def readyTrap (s : State) : Option Trap := allTraps.find? fun t => trapReady t s

/-- The exception `Select()` returns: vector number, level, kind (60 R242). -/
structure Selected where
  vector : Nat
  level : BitVec 4
  kind : Kind
  deriving DecidableEq, Repr

/-- `Select()` (60 R242): a ready trap before any ready interrupt. -/
def select (s : State) : Option Selected :=
  match readyTrap s with
  | some t => some ⟨t.vector, t.level, .trap⟩
  | none =>
    match winner s with
    | some q => some ⟨Source.vector q, (priorityOf s q).setWidth 4, .interrupt⟩
    | none => none

/-- The wake-up condition of 60 R262: `cpu_ipl` and the DISI latch play no part. -/
def wake (s : State) : Bool :=
  (List.finRange 118).any fun q => intReq s q && priorityOf s q != 0#3

/-- A sleeping machine returns to Run (60 R262, R263, R265). -/
def wakes (s : State) : Bool :=
  wake s || (s.params.trapWakes && allTraps.any fun t => trapReady t s)

end Sys2Proof.Machine
end

