-- ==== Sys2Proof/Machine/Environment.lean ====
section
/-! DEFINITION. What the environments do to the machine: events between boundaries
(spec/60_exceptions.md R236, R237, R265; 41 R206, R207) and the instructions of the instruction environment
(00_scope.md R6; 41_trap_raising_instructions.md R190 to R205). -/

namespace Sys2Proof.Machine

/-! ### Events -/

/-- The source of pin INTn (60 R237). -/
def pinSource (n : Fin 5) : Source :=
  match n with
  | 0 => 0
  | 1 => 20
  | 2 => 29
  | 3 => 53
  | 4 => 54

/-- The pin history with the level of one pin replaced (10 R50). -/
def putPin (v : BitVec 5) (n : Fin 5) (level : Bool) : BitVec 5 :=
  if level then v ||| BitVec.twoPow 5 n.val else v &&& ~~~(BitVec.twoPow 5 n.val)

/-- Pin INTn goes to a level: the selected edge sets its flag (60 R237). -/
def pinEvent (n : Fin 5) (level : Bool) (s : State) : State :=
  let before := s.pins.getLsbD n.val
  let edge := before != level && level == !edgeNegative s n
  let moved := { s with pins := putPin s.pins n level }
  if edge then setFlag (pinSource n) moved else moved

/-- The kind of an external reset. -/
def ExternalReset.cause : ExternalReset → ResetCause
  | .powerOn => .powerOn
  | .other => .other

/-- A DMA write of a byte of data RAM; it reaches no register (20 R138; log 24). -/
def dmaWrite (a : Word) (v : Byte) (s : State) : State :=
  match placeOf s a.toNat with
  | .ram => setRamByte a.toNat v s
  | .reg _ => s
  | .absent => s

/-- One event. -/
def deliver (e : EnvEvent) (s : State) : State :=
  match e with
  | .setFlag q => setFlag q s
  | .pin n level => pinEvent n level s
  | .oscillatorFailure => (raiseHard .oscFail { s with cf := true }).state
  | .clockFail value => { s with cf := value }
  | .dmaCollision => raiseSoft .dmacErr s
  | .dmaWrite a v => dmaWrite a v s
  | .reset cause => deviceReset cause.cause s

/-- Events in the order they come. -/
def deliverAll : List EnvEvent → State → State
  | [], s => s
  | e :: rest, s => deliverAll rest (deliver e s)

/-- The events that come before this boundary are taken from the queue and delivered (60 R265). -/
def takeEvents (s : State) : State :=
  match s.events with
  | [] => s
  | now :: later => deliverAll now { s with events := later }

/-! ### Ordinary instructions -/

/-- What an ordinary instruction has done so far: the state, whether a device reset has cut it off, and
whether it raised an address error, so that its data writes are inhibited (20 R136). -/
structure Run where
  state : State
  reset : Bool
  addrErr : Bool
  deriving DecidableEq, Repr

/-- An action that raises no address error. -/
def Run.ok (s : State) : Run := ⟨s, false, false⟩

/-- An action that raises an address error (41 R195 to R197). -/
def Run.addressError (s : State) : Run :=
  let f := raiseHard .addrErr s
  ⟨f.state, f.reset, true⟩

/-- The stack check of an access, if its address is formed from W15 (41 R191). -/
def eaCheck (ea : EA) (before s : State) : State :=
  if ea.viaW15 && stackViolation before (ea.full before) (ea.addr before) then raiseSoft .stkErr s else s

/-- A word access at an odd address (41 R195). -/
def misaligned (width : Width) (a : Word) : Bool :=
  match width with
  | .byte => false
  | .word => a.getLsbD 0

/-- What a byte read delivers: the byte, and a free upper half, for the source has no extension rule
(41 R213; DESIGN CHOICE, log 38). -/
def deliveredByte (b : Byte) (s : State) : Word := Config.byteReadHigh s.draws ++ b

/-- A data read: misaligned or absent delivers any value and raises the address error (41 R195, R197). -/
def loadAction (ea : EA) (width : Width) (s : State) : Run :=
  let a := ea.addr s
  let checked := eaCheck ea s s
  if misaligned width a || placeOf s a.toNat == .absent then
    Run.addressError (setBus (Config.openWord s.draws) checked)
  else
    match width with
    | .byte => Run.ok (setBus (deliveredByte (readDataByte s a.toNat) s) checked)
    | .word => Run.ok (setBus (readDataWord s a.toNat) checked)

/-- A data write: misaligned raises the address error and does not happen (41 R195, 93 row 23); absent
vanishes (41 R197). -/
def storeAction (inhibit : Bool) (ea : EA) (width : Width) (v : Word) (s : State) : Run :=
  let a := ea.addr s
  if misaligned width a then Run.addressError (eaCheck ea s s)
  else if inhibit then Run.ok (eaCheck ea s s)
  else
    match width with
    | .byte => Run.ok (eaCheck ea s (writeDataByte a.toNat (v.extractLsb' 0 8) s))
    | .word => Run.ok (eaCheck ea s (writeDataWord a.toNat v s))

/-- A bit of the word at an address, read and written back (41 R196). -/
def modifyBitAction (inhibit : Bool) (ea : EA) (i : Fin 16) (b : Bool) (s : State) : Run :=
  let a := ea.addr s
  if misaligned .word a || placeOf s a.toNat == .absent then Run.addressError (eaCheck ea s s)
  else if inhibit then Run.ok (eaCheck ea s s)
  else
    Run.ok (eaCheck ea s (writeDataWord a.toNat (putBit (readDataWord s a.toNat) i.val b) s))

/-- A MAC-class fetch of a word, `implemented` saying which memory is implemented on its side (20 R127, R130;
41 R191). -/
def fetchAction (implemented : State → Nat → Bool) (ea : EA) (s : State) : Run :=
  let a := ea.addr s
  let checked := eaCheck ea s s
  if misaligned .word a || !implemented s a.toNat then
    Run.addressError (setBus (Config.openWord s.draws) checked)
  else Run.ok (setBus (readDataWord s a.toNat) checked)

/-- A software write, unless it is a data space write that an address error inhibits (20 R136; log 18). -/
def inhibited (inhibit : Bool) (r : Reg) (write : State) (s : State) : State :=
  if inhibit && r.inDataSpace then s else write

/-- `PUSH` of a register (40 R177). -/
def pushAction (inhibit : Bool) (r : Reg) (s : State) : Run :=
  if inhibit then
    let checked := stackCheck (sp s).toNat (sp s) s
    Run.ok (setSp (sp checked + 2#16) checked)
  else Run.ok (pushWord true (readReg r s) s)

/-- `POP` to a register (40 R177). -/
def popAction (inhibit : Bool) (r : Reg) (s : State) : Run :=
  let p := popWord s
  if p.flow.reset then ⟨p.flow.state, true, p.absent⟩
  else ⟨inhibited inhibit r (swWrite r p.value p.flow.state) p.flow.state, false, p.absent⟩

/-- Writing an accumulator. -/
def setAcc (x : AccName) (v : Acc) (s : State) : State :=
  match x with
  | .a => { s with accA := v }
  | .b => { s with accB := v }

/-- OA or OB as an accumulator operation leaves it (10 R30). -/
def setOverflow (x : AccName) (b : Bool) (s : State) : State :=
  match x with
  | .a => setSr (putBit s.sr 15 b) s
  | .b => setSr (putBit s.sr 14 b) s

/-- `AccOverflow31(X)` (41 R202). -/
def accOverflow31 (x : AccName) (s : State) : State :=
  match x with
  | .a => if ovate s then raiseMath 14 s else s
  | .b => if ovbte s then raiseMath 13 s else s

/-- `AccOverflow39(X)` (41 R203). -/
def accOverflow39 (x : AccName) (s : State) : State :=
  if covte s then
    match x with
    | .a => raiseMath 12 s
    | .b => raiseMath 11 s
  else s

/-- An accumulator operation and its overflow events (10 R30, 41 R202, R203). -/
def accAction (x : AccName) (carry31 carry39 : Bool) (result : Acc) (s : State) : State :=
  let done := setOverflow x carry31 (setAcc x result s)
  let first := if carry31 then accOverflow31 x done else done
  if carry39 then accOverflow39 x first else first

/-- `SFTAC`: a shift by more than 16 either way writes no result (41 R205). A legal shift leaves OA and OB and
delivers no overflow event by itself; what it does to them is not in the source (DESIGN CHOICE, log 23). -/
def sftacAction (x : AccName) (amount : Int) (result : Acc) (s : State) : State :=
  if 16 < amount ∨ amount < -16 then raiseMath 7 s else setAcc x result s

/-- One action of an ordinary instruction; every action draws (log 3). No action changes DL, CORCON<10:8>: what
the CPU does to it is not in the source, and it keeps its value (DESIGN CHOICE, unsafe, log 22). -/
def act (inhibit : Bool) (action : Action) (before : State) : Run :=
  let s := countDraw before
  match action with
  | .write r v => Run.ok (inhibited inhibit r (swWrite r (v.value s) s) s)
  | .writeByte r high v => Run.ok (inhibited inhibit r (swWriteByte r high v s) s)
  | .writeBit r i v => Run.ok (inhibited inhibit r (swWriteBit r i v s) s)
  | .load ea width => loadAction ea width s
  | .store ea width v => storeAction inhibit ea width (v.value s) s
  | .modifyBit ea i v => modifyBitAction inhibit ea i v s
  | .fetchX ea => fetchAction xImplemented ea s
  | .fetchY ea => fetchAction yImplemented ea s
  | .push r => pushAction inhibit r s
  | .pop r => popAction inhibit r s
  | .accOp x carry31 carry39 result => Run.ok (accAction x carry31 carry39 result s)
  | .sftac x amount result => Run.ok (sftacAction x amount result s)
  | .divideByZero => Run.ok (raiseMath 6 s)
  | .aluStatus v => Run.ok (setSr (s.sr.extractLsb' 5 11 ++ v) s)
  | .dspStatus v => Run.ok (setSr (s.sr.extractLsb' 14 2 ++ (v ++ s.sr.extractLsb' 0 8)) s)

/-- The actions of an instruction in program order (60 R265). -/
def actAll (inhibit : Bool) : List Action → State → Run
  | [], s => Run.ok s
  | action :: rest, s =>
    let r := act inhibit action s
    if r.reset then r
    else
      let later := actAll inhibit rest r.state
      ⟨later.state, later.reset, r.addrErr || later.addrErr⟩

/-- The effects of an instruction once it has been found to raise an address error: none of its data writes
takes place, and the error is raised in any case, also where only one of those writes led to it
(20 R136; log 18). -/
def heldEffects (acts : List Action) (s : State) : Run :=
  let held := actAll true acts s
  if held.reset || held.addrErr then held else Run.addressError held.state

/-- The effects of an instruction; if it raises an address error, by an access or, as `branchError` says, by its
literal target, none of its data writes takes place (20 R136; log 18). -/
def effects (branchError : Bool) (acts : List Action) (s : State) : Run :=
  let free := actAll branchError acts s
  if !branchError && free.addrErr then heldEffects acts s else free

/-- `BRA #literal` or `GOTO #literal` (41 R199, 40 R174): the address error is raised for an unimplemented
target, and the PC takes the target unless a device reset cuts the instruction off. -/
def branchLiteral (a : PAddr) (s : State) : Flow :=
  let raised : Flow :=
    if progImplemented s (evenPc a).toNat then ⟨s, false⟩ else raiseHard .addrErr s
  raised.andThen fun s1 => ⟨setPc a s1, false⟩

/-- The successor is a literal target in unimplemented program memory, so that the instruction raises the address
error (41 R199). -/
def Successor.addressError (s : State) : Successor → Bool
  | .sequential _ => false
  | .computed _ => false
  | .literal a => !progImplemented s (evenPc a).toNat

/-- Where control goes (00 R6 (b)). -/
def succeed (succ : Successor) (s : State) : State :=
  match succ with
  | .sequential twoWords => advancePc (if twoWords then 4 else 2) s
  | .computed a => setPc a s
  | .literal a => (branchLiteral a s).state

/-- An ordinary instruction, but for the counting at the end of its step (60 R265). -/
def runOrdinary (i : OrdInstr) (s : State) : State :=
  let r := effects (i.succ.addressError s) i.acts s
  if r.reset then r.state else succeed i.succ r.state

end Sys2Proof.Machine
end

