-- ==== Sys2Proof/Machine/SystemControl.lean ====
section
/-! DEFINITION. The meanings of `PWRSAV`, `RESET` and `GOTO`
(spec/40_interrupt_control_instructions.md R172 to R174). -/

namespace Sys2Proof.Machine

/-- The power mode `PWRSAV #lit1` chooses (40 R172). -/
def pwrsavMode (lit1 : BitVec 1) : PowerMode := if lit1 = 0#1 then .sleep else .idle

/-- `PWRSAV #lit1` (40 R172). -/
def execPwrsav (lit1 : BitVec 1) (s : State) : Host.Outcome State Fault Refusal :=
  .next (advancePc 2 { s with power := pwrsavMode lit1 })

/-- `RESET` (40 R173): `DeviceReset(software)`. -/
def execReset (s : State) : Host.Outcome State Fault Refusal :=
  .next (deviceReset .software s)

/-- `GOTO lit23` (40 R174, 41 R199). -/
def execGoto (target : PAddr) (s : State) : Host.Outcome State Fault Refusal :=
  .next (branchLiteral target s).state

end Sys2Proof.Machine
end

