-- ==== Sys2Proof/Machine/Dispatch.lean ====
section
/-! DEFINITION. One arm for each instruction of the opcode table. -/

namespace Sys2Proof.Machine

/-- The effect of an instruction on the state, but for the counting at the end of its step. -/
def exec (i : Instr) (s : State) : Host.Outcome State Fault Refusal :=
  match i with
  | .disi lit14 => Sys2Proof.Machine.execDisi lit14 s
  | .retfie => Sys2Proof.Machine.execRetfie s
  | .pwrsav lit1 => Sys2Proof.Machine.execPwrsav lit1 s
  | .reset => Sys2Proof.Machine.execReset s
  | .goto target => Sys2Proof.Machine.execGoto target s

end Sys2Proof.Machine
end

