-- ==== Sys2Proof/Machine/Boundary.lean ====
section
/-! DEFINITION. One boundary of the machine in its parts: events, wake-up, the check of the PC, the fetch, the
instruction and the counting at the end (spec/60_exceptions.md R265). -/

namespace Sys2Proof.Machine

/-- The events before the boundary, and no mark of an earlier step. -/
def beginStep (s : State) : State := clearMarks (takeEvents s)

/-- The machine in Run, or nothing where it sleeps on (60 R262, R263, R265). -/
def wakeUp (s : State) : Option State :=
  if s.power = .run then some s
  else if wakes s then some { s with power := .run }
  else none

/-- Execution from unimplemented program memory raises the address error (41 R198). -/
def checkFetch (s : State) : Flow :=
  if progImplemented s (curPc s).toNat then ⟨s, false⟩ else raiseHard .addrErr s

/-- The instruction word at the PC. -/
def fetchWord (s : State) : PWord := progRead24 s (curPc s).toNat

/-- The word after it (30 R152); unimplemented memory is not read (20 R124), and the word is then free
(log 35). -/
def fetchSecond (s : State) : PWord :=
  let a := (pcPlus (curPc s) 2).toNat
  if progImplemented s a then progRead24 s a else Config.progFree a

/-- What the decoder makes of the words at the PC (30 R154). -/
def decodeAtPc (s : State) : Except DecodeError Instr := decode [fetchWord s, fetchSecond s]

/-- Instruction cycles of an instruction of the table, in the state it leaves: `DISI` 1 (40 R161), `RETFIE` 3
(70 R331), the others at least 1 and otherwise free (70 R334; log 8). -/
def instrCycles (i : Instr) (s : State) : Nat :=
  match i with
  | .disi _ => 1
  | .retfie => 3
  | .pwrsav _ => 1 + Config.extraCycles s.draws
  | .reset => 1 + Config.extraCycles s.draws
  | .goto _ => 1 + Config.extraCycles s.draws

/-- The end of a step that executed an instruction (60 R265, 40 R164). -/
def endInstruction (cycles : Nat) (s : State) : State :=
  clearMarks (countDisi cycles (countSkids (countDraw s)))

/-- The end of a step that took an exception: 4 cycles, no skid counts (60 R228, R245; 70 R330). -/
def endEntry (s : State) : State := clearMarks (countDisi 4 s)

/-- A step that takes an exception (60 R265). -/
def takeStep (e : Selected) (s : State) : State := endEntry (takeException e.vector e.level e.kind s)

/-- An instruction of the table, and the end of its step. -/
def runDecoded (i : Instr) (s : State) : Host.Outcome State Fault Refusal :=
  match exec i s with
  | .next s' => .next (endInstruction (instrCycles i s') s')
  | .fault r => .fault r
  | .refused r => .refused r

/-- A word that executes as a `NOP` (30 R152): the PC moves on and nothing else happens; its cycles are free
(log 8). -/
def runNop (s : State) : State := endInstruction (1 + Config.extraCycles s.draws) (advancePc 2 s)

/-- The next instruction of the instruction environment, and the end of its step; without one the word at the
PC is refused (30 R156; log 7). -/
def runEnvironment (s : State) : Host.Outcome State Fault Refusal :=
  match s.ordinary with
  | [] => .refused (.outsideTable (fetchWord s))
  | o :: rest =>
    .next (endInstruction (max 1 o.cycles) (runOrdinary o { s with ordinary := rest }))

/-- The instruction at the PC (60 R265). -/
def runInstruction (s : State) : Host.Outcome State Fault Refusal :=
  match decodeAtPc s with
  | .ok i => runDecoded i s
  | .error (.gotoSecondWord w) => .refused (.gotoSecondWord w)
  | .error .gotoTruncated => runEnvironment s
  | .error .noWord => runEnvironment s
  | .error (.unknownWord w) => if executesAsNop w then .next (runNop s) else runEnvironment s

/-- A boundary in Run: the check of the PC, then an exception or an instruction (60 R265). -/
def runBoundary (s : State) : Host.Outcome State Fault Refusal :=
  let checked := checkFetch s
  if checked.reset || checked.state.stalled then .next checked.state
  else
    match select checked.state with
    | some e => .next (takeStep e checked.state)
    | none => runInstruction checked.state

/-- A boundary after its events. -/
def atBoundary (s : State) : Host.Outcome State Fault Refusal :=
  if s.stalled then .fault .hardTrapStall
  else
    match wakeUp s with
    | none => .next s
    | some awake => runBoundary awake

/-- The words of an instruction, numbered as spec/opcode_table.json numbers their bits, programmed at the PC
and after it. -/
def programAtPc (nbits w : Nat) (s : State) : List (Nat × PWord) :=
  match tableWords nbits w with
  | first :: second :: _ =>
    Memory.store (Memory.store s.prog (curPc s).toNat first) (pcPlus (curPc s) 2).toNat second
  | [first] => Memory.store s.prog (curPc s).toNat first
  | [] => s.prog

end Sys2Proof.Machine
end

