-- ==== Sys2Proof/Machine/Step.lean ====
section
/-! DEFINITION. One boundary of the machine (spec/60_exceptions.md R265), and the programming of one
instruction at the PC (log 6). -/

namespace Sys2Proof.Machine

/-- `Step()` (60 R265). -/
def step (s : State) : Host.Outcome State Fault Refusal := atBoundary (beginStep s)

/-- The state with the instruction whose bits are `w` programmed where `step` fetches. -/
def State.withFetchWord (s : State) (nbits w : Nat) : State :=
  { s with prog := programAtPc nbits w s }

end Sys2Proof.Machine
end

