-- ==== Sys2Proof/Machine/Sources.lean ====
section
/-! DEFINITION. The interrupt sources by name (spec/11_interrupt_source_registers.md R79): the stem of the names
of a source's flag, enable and priority bits (`T1` gives T1IF, T1IE, T1IP). -/

namespace Sys2Proof.Machine

/-- Sources 0 to 17 (11 R79). -/
def namedSources0 : List (Source × String) :=
  [(0, "INT0"), (1, "IC1"), (2, "OC1"), (3, "T1"), (4, "DMA0"), (5, "IC2"), (6, "OC2"), (7, "T2"),
   (8, "T3"), (9, "SPI1E"), (10, "SPI1"), (11, "U1RX"), (12, "U1TX"), (13, "AD1"), (14, "DMA1"),
   (16, "SI2C1"), (17, "MI2C1")]

/-- Sources 19 to 35 (11 R79). -/
def namedSources1 : List (Source × String) :=
  [(19, "CN"), (20, "INT1"), (21, "AD2"), (22, "IC7"), (23, "IC8"), (24, "DMA2"), (25, "OC3"),
   (26, "OC4"), (27, "T4"), (28, "T5"), (29, "INT2"), (30, "U2RX"), (31, "U2TX"), (32, "SPI2E"),
   (33, "SPI2"), (34, "C1RX"), (35, "C1")]

/-- Sources 36 to 53 (11 R79). -/
def namedSources2 : List (Source × String) :=
  [(36, "DMA3"), (37, "IC3"), (38, "IC4"), (39, "IC5"), (40, "IC6"), (41, "OC5"), (42, "OC6"),
   (43, "OC7"), (44, "OC8"), (46, "DMA4"), (47, "T6"), (48, "T7"), (49, "SI2C2"), (50, "MI2C2"),
   (51, "T8"), (52, "T9"), (53, "INT3")]

/-- Sources 54 to 71 (11 R79). -/
def namedSources3 : List (Source × String) :=
  [(54, "INT4"), (55, "C2RX"), (56, "C2"), (57, "PWM"), (58, "QEI"), (59, "DCIE"), (60, "DCI"),
   (61, "DMA5"), (63, "FLTA"), (64, "FLTB"), (65, "U1E"), (66, "U2E"), (68, "DMA6"), (69, "DMA7"),
   (70, "C1TX"), (71, "C2TX")]

/-- The 67 named sources, in natural order (11 R79). -/
def namedSources : List (Source × String) :=
  namedSources0 ++ (namedSources1 ++ (namedSources2 ++ namedSources3))

/-- The set of the sources of a list (11 R71). -/
def sourceSet : List (Source × String) → BitVec 118
  | [] => 0#118
  | (q, _) :: rest => BitVec.twoPow 118 q.val ||| sourceSet rest

/-- The source of a name, if there is one. -/
def sourceNamed (name : String) : Option Source :=
  (namedSources.find? fun e => e.2 == name).map Prod.fst

end Sys2Proof.Machine
end

