-- ==== Sys2Proof/Safety.lean ====
section
/-! DEFINITION. What claims about the machine speak of: the invariant that every step keeps, and the outcomes a
run must not meet. -/

namespace Sys2Proof.Machine

/-- What every operation of the machine keeps, at any point of a step. -/
structure Kept (s : State) : Prop where
  /-- Data memory has its canonical form (log 4). -/
  memWf : Memory.wf s.mem = true
  /-- Program memory has its canonical form (log 5). -/
  progWf : Memory.wf s.prog = true
  /-- PC<0> is always 0 (10_state.md R21). -/
  pcEven : s.pc.getLsbD 0 = false
  /-- W15<0> is held at 0 (60_exceptions.md R250). -/
  spEven : s.w15.getLsbD 0 = false
  /-- No unimplemented flag bit is stored (10 R61, 11 R71). -/
  ifsImplemented : ∀ n : Fin 8, s.ifs[n] &&& flagMask s.params n.val = s.ifs[n]
  /-- No unimplemented enable bit is stored (10 R61, 11 R71). -/
  iecImplemented : ∀ n : Fin 8, s.iec[n] &&& flagMask s.params n.val = s.iec[n]
  /-- No unimplemented priority bit is stored (10 R61, 11 R71, R77). -/
  ipcImplemented : ∀ n : Fin 30, s.ipc[n] &&& priorityMask s.params n.val = s.ipc[n]
  /-- INTCON1<0> is unimplemented (10 R35). -/
  intcon1Implemented : s.intcon1.getLsbD 0 = false
  /-- INTCON2 holds ALTIVT and the five edge bits (10 R40). -/
  intcon2Implemented : s.intcon2 &&& 0x801F#16 = s.intcon2
  /-- CORCON<15:13> are unimplemented (10 R31). -/
  corconImplemented : s.corcon &&& 0x1FFF#16 = s.corcon
  /-- A trap that is not pending has no skid (60 R226, R228). -/
  skidPending : ∀ t : Trap, trapPending t s = false → skidLeft t s = 0
  /-- A skid is at most `SOFT_TRAP_SKID` (60 R228). -/
  skidBound : ∀ t : Trap, skidLeft t s ≤ s.params.softTrapSkid
  /-- Where `DISI #0` clears the latch, the latch is 1 only while DISICNT is not 0 (10 R47, 40 R164 to R166). -/
  latchCounts : s.params.disiZero = .clears → s.disiLatch = true → s.disicnt ≠ 0#14

/-- No mark of the present step is left (log 32). -/
def Unmarked (s : State) : Prop :=
  s.skidStk.fresh = false ∧ s.skidMath.fresh = false ∧ s.skidDmac.fresh = false ∧ s.disiLoaded = false

/-- The invariant of every boundary. -/
structure Inv (s : State) : Prop extends Kept s where
  unmarked : Unmarked s

/-- The step ends in a next state. -/
def Completes (s : State) : Prop := ∃ t, step s = .next t

/-- The step stops with a fault; this state is to be avoided (60_exceptions.md R258, "a model must not draw
conclusions from a run that reaches this state"). -/
def Stops (s : State) : Prop := ∃ r, step s = .fault r

/-- At address `a` there is a word of data RAM: both its bytes are RAM and `a` is even. -/
def ramAt (s : State) (a : Word) : Prop :=
  a.getLsbD 0 = false ∧ placeOf s a.toNat = .ram ∧ placeOf s (a.toNat + 1) = .ram

end Sys2Proof.Machine
end

