-- ==== Sys2Proof/Certificates/Slice0/Obligations.lean ====
section
/-! DEFINITION. The statements for the provers. A frame is written as an equation: `t` with the fields named put
back to what they are in `s` is `s`, so that every other field of `t` is that of `s`. -/

open Sys2Proof Sys2Proof.Machine

/-! ### Encoding and decoding -/

/-- The words of 95_test_vectors.md section 2.13 decode as that table says (encodings of general knowledge:
log 12); and a `GOTO` whose second word has a bit above bit 6 is refused. -/
def Obligations.DecodesTheSpecsWords : Prop :=
  decode [0xFC0000#24] = .ok (.disi 0#14) ∧
  decode [0xFC0002#24] = .ok (.disi 2#14) ∧
  decode [0xFC3FFF#24] = .ok (.disi 0x3FFF#14) ∧
  decode [0xFC4000#24] = .error (.unknownWord 0xFC4000#24) ∧
  decode [0x064000#24] = .ok .retfie ∧
  decode [0xFE4000#24] = .ok (.pwrsav 0#1) ∧
  decode [0xFE4001#24] = .ok (.pwrsav 1#1) ∧
  decode [0xFE0000#24] = .ok .reset ∧
  decode [0x042346#24, 0x000001#24] = .ok (.goto 0x012346#23) ∧
  decode [0x040200#24, 0x000000#24] = .ok (.goto 0x000200#23) ∧
  decode [0x040201#24] = .error (.unknownWord 0x040201#24) ∧
  decode [0x042346#24, 0x000081#24] = .error (.gotoSecondWord 0x000081#24)

/-- The match, mask and fields of the opcode table (30_encoding.md section 3, general knowledge there: log 12), and
the refusal by name of every other word (log 7, log 35). -/
def Obligations.DecodeFollowsTheTable : Prop :=
  ∀ (w second : PWord) (rest : List PWord),
    (w &&& 0xFFC000#24 = 0xFC0000#24 → decode (w :: rest) = .ok (.disi (w.extractLsb' 0 14))) ∧
    (w &&& 0xFFFFFF#24 = 0x064000#24 → decode (w :: rest) = .ok .retfie) ∧
    (w &&& 0xFFFFFE#24 = 0xFE4000#24 → decode (w :: rest) = .ok (.pwrsav (w.extractLsb' 0 1))) ∧
    (w &&& 0xFFFFFF#24 = 0xFE0000#24 → decode (w :: rest) = .ok .reset) ∧
    (w &&& 0xFF0001#24 = 0x040000#24 →
      (second &&& 0xFFFF80#24 = 0x000000#24 →
        decode (w :: second :: rest)
          = .ok (.goto (second.extractLsb' 0 7 ++ w.extractLsb' 1 15 ++ 0#1))) ∧
      (second &&& 0xFFFF80#24 ≠ 0x000000#24 →
        decode (w :: second :: rest) = .error (.gotoSecondWord second))) ∧
    ((∀ r ∈ opcodeRows, r.fits w = false) → decode (w :: rest) = .error (.unknownWord w))

/-- Decoding the words of a well-formed instruction, whatever follows them, gives it back, for every operand. -/
def Obligations.DecodeOfEncode : Prop :=
  ∀ (i : Instr) (rest : List PWord), i.wf = true → decode (encode i ++ rest) = .ok i

/-- The instruction `withFetchWord` programs is the one decoded at the PC (log 6). -/
def Obligations.ProgrammedWordIsDecoded : Prop :=
  ∀ (s : State) (nbits w : Nat),
    (curPc s).toNat + 2 < 2 ^ 23 → progImplemented s (curPc s).toNat = true →
    progImplemented s ((curPc s).toNat + 2) = true →
    decodeAtPc (s.withFetchWord nbits w) = decode (tableWords nbits w) ∧
    curPc (s.withFetchWord nbits w) = curPc s

/-! ### The step -/

/-- At a boundary in Run, with the PC in implemented memory and nothing to take, the step is the meaning of the
instruction at the PC, and then the end of the step (60_exceptions.md section 7). -/
def Obligations.StepRunsTheDecodedInstruction : Prop :=
  ∀ (s : State) (i : Instr),
    (beginStep s).stalled = false → (beginStep s).power = .run →
    progImplemented (beginStep s) (curPc (beginStep s)).toNat = true → select (beginStep s) = none →
    decodeAtPc (beginStep s) = .ok i →
    step s = match exec i (beginStep s) with
      | .next t => .next (endInstruction (instrCycles i t) t)
      | .fault r => .fault r
      | .refused r => .refused r

/-- The end of a step that executed an instruction: DISICNT goes down by the cycles unless this step loaded it,
the DISI latch falls with it, and each skid that this instruction did not draw goes down by one; nothing else
changes but the counter of free values (the spec's decisions D13 and D14; log 8, log 9, log 32). -/
def Obligations.EndOfAnInstruction : Prop :=
  ∀ (cycles : Nat) (s : State),
    (s.disiLoaded = false →
      (endInstruction cycles s).disicnt.toNat = s.disicnt.toNat - cycles ∧
      (endInstruction cycles s).disiLatch = (s.disiLatch && decide (cycles < s.disicnt.toNat))) ∧
    (s.disiLoaded = true →
      (endInstruction cycles s).disicnt = s.disicnt ∧ (endInstruction cycles s).disiLatch = s.disiLatch) ∧
    (endInstruction cycles s).skidStk
      = ⟨if s.skidStk.fresh then s.skidStk.left else s.skidStk.left - 1, false⟩ ∧
    (endInstruction cycles s).skidMath
      = ⟨if s.skidMath.fresh then s.skidMath.left else s.skidMath.left - 1, false⟩ ∧
    (endInstruction cycles s).skidDmac
      = ⟨if s.skidDmac.fresh then s.skidDmac.left else s.skidDmac.left - 1, false⟩ ∧
    { endInstruction cycles s with
      disicnt := s.disicnt, disiLatch := s.disiLatch, disiLoaded := s.disiLoaded, draws := s.draws,
      skidStk := s.skidStk, skidMath := s.skidMath, skidDmac := s.skidDmac } = s

/-- At a boundary in Run, with the PC in implemented memory, a selected exception is taken and no instruction
runs; the entry counts as 4 cycles and no skid counts (60_exceptions.md section 7). -/
def Obligations.StepTakesTheSelectedException : Prop :=
  ∀ (s : State) (e : Selected),
    (beginStep s).stalled = false → (beginStep s).power = .run →
    progImplemented (beginStep s) (curPc (beginStep s)).toNat = true → select (beginStep s) = some e →
    step s = .next (clearMarks (countDisi 4 (takeException e.vector e.level e.kind (beginStep s))))

/-- In Sleep or Idle nothing happens without the wake-up condition, which is an enabled and flagged source of
level 1 or more or, with `TRAP_WAKES`, a ready trap; with it the mode is Run and the boundary goes on (the spec's
decisions D20 and D33; log 25, log 26). -/
def Obligations.SleepAndWakeUp : Prop :=
  ∀ s : State, (beginStep s).stalled = false → (beginStep s).power ≠ .run →
    (((∃ q : Source, intReq (beginStep s) q = true ∧ priorityOf (beginStep s) q ≠ 0#3) ∨
        ((beginStep s).params.trapWakes = true ∧ ∃ t : Trap, trapReady t (beginStep s) = true)) →
      step s = runBoundary { beginStep s with power := .run }) ∧
    ((∀ q : Source, intReq (beginStep s) q = true → priorityOf (beginStep s) q = 0#3) →
      ((beginStep s).params.trapWakes = false ∨ ∀ t : Trap, trapReady t (beginStep s) = false) →
      step s = .next (beginStep s))

/-- At a PC in unimplemented program memory no instruction runs: the address error trap is taken at once with that
PC as return address; or, where an oscillator failure is pending or the CPU priority is above 13, the device is
reset; or, at CPU priority 13, what `HARD_TRAP_BLOCKED` says (60_exceptions.md section 7; the spec's decisions D15,
D24, D25; log 20). -/
def Obligations.UnimplementedPcTakesTheAddressError : Prop :=
  ∀ s : State, (beginStep s).stalled = false → (beginStep s).power = .run →
    progImplemented (beginStep s) (curPc (beginStep s)).toNat = false →
    (trapPending .oscFail (beginStep s) = false → cpuIpl (beginStep s) < 13#4 →
      step s = .next (endEntry (takeException 2 13#4 .trap (setIntcon1Bit 3 (beginStep s))))) ∧
    (trapPending .oscFail (beginStep s) = true ∨ 13#4 < cpuIpl (beginStep s) →
      step s = .next (deviceReset .trapConflict (beginStep s))) ∧
    (trapPending .oscFail (beginStep s) = false → cpuIpl (beginStep s) = 13#4 →
      step s = match (beginStep s).params.hardTrapBlocked with
        | .reset => .next (deviceReset .trapConflict (beginStep s))
        | .stall => .next { setIntcon1Bit 3 (beginStep s) with stalled := true })

/-- The blocked state of the parameter value `stall` has no further step (the model's form of
60_exceptions.md R258, an open parameter of the spec: log 19). -/
def Obligations.StalledMachineStops : Prop :=
  ∀ s : State, (beginStep s).stalled = true → step s = .fault .hardTrapStall

/-- A word of no row of the opcode table whose top 8 bits are 0 executes as a `NOP` (30_encoding.md section 1,
general knowledge there: log 12); any other is an instruction of the environment, if it supplies one, and refused
by name if not; a `GOTO` with a bad second word is refused by name (log 7, log 35). -/
def Obligations.WordOutsideTheTable : Prop :=
  ∀ (s : State) (w : PWord),
    (beginStep s).stalled = false → (beginStep s).power = .run →
    progImplemented (beginStep s) (curPc (beginStep s)).toNat = true → select (beginStep s) = none →
    (decodeAtPc (beginStep s) = .error (.unknownWord w) → w.extractLsb' 16 8 = 0#8 →
      ∃ cycles : Nat, 1 ≤ cycles ∧ step s = .next (endInstruction cycles (advancePc 2 (beginStep s)))) ∧
    (decodeAtPc (beginStep s) = .error (.unknownWord w) → w.extractLsb' 16 8 ≠ 0#8 →
      (beginStep s).ordinary = [] → step s = .refused (.outsideTable w)) ∧
    (decodeAtPc (beginStep s) = .error (.unknownWord w) → w.extractLsb' 16 8 ≠ 0#8 →
      ∀ (o : OrdInstr) (rest : List OrdInstr), (beginStep s).ordinary = o :: rest →
        step s = .next (endInstruction (max 1 o.cycles)
          (runOrdinary o { beginStep s with ordinary := rest }))) ∧
    (decodeAtPc (beginStep s) = .error (.gotoSecondWord w) → step s = .refused (.gotoSecondWord w))

/-- Every step that is not blocked, and whose word is an instruction, executes as a `NOP` or has an instruction
supplied by the environment, ends in a next state, in every power mode and whatever is pending. -/
def Obligations.StepCompletes : Prop :=
  ∀ s : State, (beginStep s).stalled = false →
    ((∃ i, decodeAtPc (beginStep s) = .ok i) ∨
      (∃ w, decodeAtPc (beginStep s) = .error (.unknownWord w) ∧ executesAsNop w = true) ∨
      ((beginStep s).ordinary ≠ [] ∧ ∀ w, decodeAtPc (beginStep s) ≠ .error (.gotoSecondWord w))) →
    Completes s

/-! ### The instructions -/

/-- `DISI #lit14`, lit14 not 0: DISICNT holds the literal, the DISI latch is 1 and INTCON2<14> reads 1, no source
of level 1 to 6 is ready after it, the PC moves on by 2, and nothing else changes (40, section 1; literal and
encoding of general knowledge: log 12; past the top of program space the PC is free: log 10). -/
def Obligations.DisiLoadsCountAndLatch : Prop :=
  ∀ (lit14 : BitVec 14) (s : State), lit14 ≠ 0#14 → ∃ t : State,
    exec (.disi lit14) s = .next t ∧
    t.disicnt = lit14 ∧ t.disiLatch = true ∧ (readReg .intcon2 t).getLsbD 14 = true ∧
    (∀ q : Source, priorityOf t q ≠ 7#3 → intReady t q = false) ∧
    ((curPc s).toNat + 2 < 2 ^ 23 → (curPc t).toNat = (curPc s).toNat + 2) ∧
    (∀ a : Nat, ramByte t a = ramByte s a) ∧
    { t with disicnt := s.disicnt, disiLatch := s.disiLatch, disiLoaded := s.disiLoaded, pc := s.pc } = s

/-- `DISI #0`: DISICNT is 0 and the latch is 1 exactly under `DISI_ZERO` = `one_boundary` (an open parameter, the
spec's decision D12; log 1). -/
def Obligations.DisiZero : Prop :=
  ∀ s : State, ∃ t : State,
    exec (.disi 0#14) s = .next t ∧
    t.disicnt = 0#14 ∧ (t.disiLatch = true ↔ s.params.disiZero = .oneBoundary) ∧
    ((curPc s).toNat + 2 < 2 ^ 23 → (curPc t).toNat = (curPc s).toNat + 2) ∧
    (∀ a : Nat, ramByte t a = ramByte s a) ∧
    { t with disicnt := s.disicnt, disiLatch := s.disiLatch, disiLoaded := s.disiLoaded, pc := s.pc } = s

/-- `PWRSAV #lit1`: the PC moves on by 2, the power mode is Sleep (0) or Idle (1), and nothing else changes (40,
section 3; operand of general knowledge: log 12). -/
def Obligations.PwrsavStopsTheCpu : Prop :=
  ∀ (lit1 : BitVec 1) (s : State), ∃ t : State,
    exec (.pwrsav lit1) s = .next t ∧
    (lit1 = 0#1 → t.power = .sleep) ∧ (lit1 = 1#1 → t.power = .idle) ∧
    ((curPc s).toNat + 2 < 2 ^ 23 → (curPc t).toNat = (curPc s).toNat + 2) ∧
    (∀ a : Nat, ramByte t a = ramByte s a) ∧
    { t with power := s.power, pc := s.pc } = s

/-- `RESET` is the device reset, which leaves TRAPR as it is (the spec's decision D35 and its inference on TRAPR);
program memory, the parameters and what the environments still have to deliver stay. -/
def Obligations.ResetInstruction : Prop :=
  ∀ s : State, ∃ t : State,
    exec .reset s = .next t ∧
    curPc t = 0x000000#23 ∧ sp t = 0x0800#16 ∧ t.splimArmed = false ∧ t.sr = 0x0000#16 ∧
    t.corcon = 0x0020#16 ∧ t.intcon1 = 0x0000#16 ∧ readReg .intcon2 t = 0x0000#16 ∧
    t.disicnt = 0#14 ∧ t.disiLatch = false ∧ t.power = .run ∧
    (∀ n : Fin 8, ifsRead t n = 0x0000#16 ∧ iecRead t n = 0x0000#16) ∧
    (∀ q : Source, priorityOf t q = if sourceImplemented s.params q then 4#3 else 0#3) ∧
    t.trapr = s.trapr ∧
    t.prog = s.prog ∧ t.params = s.params ∧ t.events = s.events ∧ t.ordinary = s.ordinary

/-- `GOTO` to an address in implemented program memory: the PC is that address (bit 0 of the PC is always 0) and
nothing else changes (40, section 3). -/
def Obligations.GotoImplemented : Prop :=
  ∀ (target : PAddr) (s : State), progImplemented s (evenPc target).toNat = true → ∃ t : State,
    exec (.goto target) s = .next t ∧
    curPc t = target &&& 0x7FFFFE#23 ∧
    (∀ a : Nat, ramByte t a = ramByte s a) ∧
    { t with pc := s.pc } = s

/-- A literal branch, `GOTO` or the environment's, to an unimplemented program address raises the address error
and still takes the branch, where the raise meets no conflict and no equal level (those: `HardTrapRaised`). -/
def Obligations.LiteralBranchToUnimplementedMemory : Prop :=
  ∀ (target : PAddr) (s : State), progImplemented s (evenPc target).toNat = false →
    trapPending .oscFail s = false → cpuIpl s < 13#4 → ∃ t : State,
    exec (.goto target) s = .next t ∧ succeed (.literal target) s = t ∧
    trapPending .addrErr t = true ∧ t.intcon1 = putBit s.intcon1 3 true ∧
    curPc t = target &&& 0x7FFFFE#23 ∧
    select t = some ⟨2, 13#4, .trap⟩ ∧
    (∀ a : Nat, ramByte t a = ramByte s a) ∧
    { t with pc := s.pc, intcon1 := s.intcon1 } = s

/-- A `GOTO` to an unimplemented address under a hard-trap conflict resets the device instead (log 20). -/
def Obligations.LiteralBranchUnderConflict : Prop :=
  ∀ (target : PAddr) (s : State), progImplemented s (evenPc target).toNat = false →
    (trapPending .oscFail s = true ∨ 13#4 < cpuIpl s) →
    exec (.goto target) s = .next (deviceReset .trapConflict s)

/-- `RETFIE` with its two words in data RAM: SR<7:0>, IPL3 and the PC come from the words at W15 - 2 and W15 - 4,
W15 goes down by 4, a pop address below 0x0800 or above an armed SPLIM raises the stack error, and nothing else
changes (40, section 2; the frame's layout of general knowledge: log 13). -/
def Obligations.RetfieRestoresTheFrame : Prop :=
  ∀ s : State, ramAt s (sp s - 2#16) → ramAt s (sp s - 4#16) → ∃ t : State,
    exec .retfie s = .next t ∧
    sp t = sp s - 4#16 ∧
    t.sr = s.sr.extractLsb' 8 8 ++ (ramWord s (sp s - 2#16).toNat).extractLsb' 8 8 ∧
    t.corcon = putBit s.corcon 3 ((ramWord s (sp s - 2#16).toNat).getLsbD 7) ∧
    curPc t = (ramWord s (sp s - 2#16).toNat).extractLsb' 0 7
      ++ (ramWord s (sp s - 4#16).toNat).extractLsb' 1 15 ++ 0#1 ∧
    ((stackViolation s (sp s - 2#16).toNat (sp s - 2#16) = false ∧
        stackViolation s (sp s - 4#16).toNat (sp s - 4#16) = false) →
      t.intcon1 = s.intcon1 ∧ t.skidStk = s.skidStk) ∧
    ((stackViolation s (sp s - 2#16).toNat (sp s - 2#16) = true ∨
        stackViolation s (sp s - 4#16).toNat (sp s - 4#16) = true) →
      t.intcon1 = putBit s.intcon1 2 true ∧
      (trapPending .stkErr s = true → t.skidStk = s.skidStk) ∧
      (trapPending .stkErr s = false → t.skidStk.left ≤ s.params.softTrapSkid)) ∧
    (∀ a : Nat, ramByte t a = ramByte s a) ∧
    { t with
      pc := s.pc, sr := s.sr, corcon := s.corcon, w15 := s.w15, intcon1 := s.intcon1, skidStk := s.skidStk,
      draws := s.draws } = s

/-- `RETFIE` wherever its two words lie: it restores what the two pops read, SR<15:8> and CORCON but for bit 3 keep
their values, and nothing is changed beyond what the pops do (`PopReadsBelowW15`), unless a pop from unimplemented
memory meets a hard-trap conflict, whose device reset cuts it off (log 14, log 17, log 20). -/
def Obligations.RetfieRestoresWhatItPops : Prop :=
  ∀ s : State,
    ((popWord s).flow.reset = false → (popWord (popWord s).flow.state).flow.reset = false → ∃ t : State,
      exec .retfie s = .next t ∧
      t.sr = s.sr.extractLsb' 8 8 ++ (popWord s).value.extractLsb' 8 8 ∧
      t.corcon = putBit s.corcon 3 ((popWord s).value.getLsbD 7) ∧
      curPc t = (popWord s).value.extractLsb' 0 7
        ++ (popWord (popWord s).flow.state).value.extractLsb' 1 15 ++ 0#1 ∧
      { t with
        pc := (popWord (popWord s).flow.state).flow.state.pc
        sr := (popWord (popWord s).flow.state).flow.state.sr
        corcon := (popWord (popWord s).flow.state).flow.state.corcon }
        = (popWord (popWord s).flow.state).flow.state) ∧
    ((popWord s).flow.reset = true → exec .retfie s = .next (popWord s).flow.state) ∧
    ((popWord s).flow.reset = false → (popWord (popWord s).flow.state).flow.reset = true →
      exec .retfie s = .next (popWord (popWord s).flow.state).flow.state)

/-! ### The stack -/

/-- A push at W15 to data RAM: the word is written, W15 goes up by 2, and the stack error is raised exactly when
the push is checked and its address is below 0x0800 or above an armed SPLIM, the write standing all the same (the
spec's decisions D39 and D40; log 16). -/
def Obligations.PushWritesAtW15 : Prop :=
  ∀ (check : Bool) (v : Word) (s : State), ramAt s (sp s) →
    ramWord (pushWord check v s) (sp s).toNat = v ∧
    sp (pushWord check v s) = sp s + 2#16 ∧
    (∀ a : Nat, a ≠ (sp s).toNat → a ≠ (sp s).toNat + 1 → ramByte (pushWord check v s) a = ramByte s a) ∧
    (check = true → (s.splimArmed = true ∧ s.splim < sp s) ∨ sp s < 0x0800#16 →
      (pushWord check v s).intcon1 = putBit s.intcon1 2 true ∧
      (trapPending .stkErr s = true → (pushWord check v s).skidStk = s.skidStk) ∧
      (trapPending .stkErr s = false →
        (pushWord check v s).skidStk.left ≤ s.params.softTrapSkid ∧
        (pushWord check v s).skidStk.fresh = true)) ∧
    (check = false ∨ ((s.splimArmed = false ∨ sp s ≤ s.splim) ∧ 0x0800#16 ≤ sp s) →
      (pushWord check v s).intcon1 = s.intcon1 ∧ (pushWord check v s).skidStk = s.skidStk) ∧
    { pushWord check v s with
      mem := s.mem, w15 := s.w15, intcon1 := s.intcon1, skidStk := s.skidStk, draws := s.draws } = s

/-- A pop: W15 goes down by 2 and the word there is read, a register's where a register stands at that address
(log 14); the stack error is raised exactly when the address fails the check; from unimplemented memory the value
is free and the address error is raised beside it, here where it meets no conflict and no equal level (the spec's
decision D39; log 17, log 37). -/
def Obligations.PopReadsBelowW15 : Prop :=
  ∀ s : State,
    (placeOf s (sp s - 2#16).toNat = .ram → (popWord s).value = ramWord s (sp s - 2#16).toNat) ∧
    (∀ r : Reg, placeOf s (sp s - 2#16).toNat = .reg r →
      (popWord s).value = readReg r (setSp (sp s - 2#16) s)) ∧
    (placeOf s (sp s - 2#16).toNat ≠ .absent →
      (popWord s).flow.reset = false ∧ (popWord s).absent = false ∧
      ((popWord s).flow.state.intcon1
        = if stackViolation s (sp s - 2#16).toNat (sp s - 2#16) then putBit s.intcon1 2 true else s.intcon1)) ∧
    (placeOf s (sp s - 2#16).toNat = .absent → trapPending .oscFail s = false → cpuIpl s < 13#4 →
      (popWord s).flow.reset = false ∧ (popWord s).absent = true ∧
      (popWord s).flow.state.intcon1
        = putBit (if stackViolation s (sp s - 2#16).toNat (sp s - 2#16) then putBit s.intcon1 2 true
            else s.intcon1) 3 true) ∧
    ((popWord s).flow.reset = false →
      sp (popWord s).flow.state = sp s - 2#16 ∧
      (∀ a : Nat, ramByte (popWord s).flow.state a = ramByte s a) ∧
      { (popWord s).flow.state with
        w15 := s.w15, intcon1 := s.intcon1, skidStk := s.skidStk, draws := s.draws, stalled := s.stalled } = s)

/-! ### Exception entry and return -/

/-- Taking an exception with the frame in data RAM and no stack error: the two words of the frame, W15 up by 4, the
new priority, the PC from the vector table in use, and nothing else: no flag, enable, priority or status bit, not
DISICNT (60_exceptions.md section 4; the frame's layout of general knowledge, log 13; the model's temporary buffer,
log 27). -/
def Obligations.EntrySavesAndJumps : Prop :=
  ∀ (v : Nat) (level : BitVec 4) (kind : Kind) (s : State),
    ramAt s (sp s) → ramAt s (sp s + 2#16) →
    (s.params.excPushStackCheck = .unchecked ∨
      (stackViolation s (sp s).toNat (sp s) = false ∧
        stackViolation s (sp s + 2#16).toNat (sp s + 2#16) = false)) →
    ramWord (takeException v level kind s) (sp s).toNat = (curPc s).extractLsb' 0 16 ∧
    ramWord (takeException v level kind s) (sp s + 2#16).toNat
      = srl s ++ (BitVec.ofBool (ipl3 s) ++ (curPc s).extractLsb' 16 7) ∧
    sp (takeException v level kind s) = sp s + 4#16 ∧
    (kind = .trap →
      (takeException v level kind s).corcon = putBit s.corcon 3 true ∧
      (takeException v level kind s).sr = withIpl ((level - 8#4).extractLsb' 0 3) s.sr) ∧
    (kind = .interrupt →
      (takeException v level kind s).corcon = s.corcon ∧
      (takeException v level kind s).sr = withIpl (if nstdis s then 7#3 else level.extractLsb' 0 3) s.sr) ∧
    curPc (takeException v level kind s)
      = (progRead24 s ((if altivt s then 0x000104 else 0x000004) + 2 * v)).extractLsb' 1 22 ++ 0#1 ∧
    (∀ a : Nat, a ≠ (sp s).toNat → a ≠ (sp s).toNat + 1 → a ≠ (sp s + 2#16).toNat →
      a ≠ (sp s + 2#16).toNat + 1 → ramByte (takeException v level kind s) a = ramByte s a) ∧
    { takeException v level kind s with
      mem := s.mem, w15 := s.w15, sr := s.sr, corcon := s.corcon, pc := s.pc, tempPc := s.tempPc,
      tempSrl := s.tempSrl } = s

/-- The CPU priority after entry, with the frame in data RAM: a trap's own level; an interrupt's level, or 7 with
NSTDIS (60_exceptions.md section 4; the spec's decisions D7 and D16). -/
def Obligations.EntryPriority : Prop :=
  ∀ (v : Nat) (level : BitVec 4) (s : State), ramAt s (sp s) → ramAt s (sp s + 2#16) →
    (8#4 ≤ level → cpuIpl (takeException v level .trap s) = level) ∧
    (level ≤ 7#4 → ipl3 s = false → nstdis s = false →
      cpuIpl (takeException v level .interrupt s) = level) ∧
    (ipl3 s = false → nstdis s = true → cpuIpl (takeException v level .interrupt s) = 7#4)

/-- Entry with checked pushes of which one fails: the stack error is raised during entry, and the frame, W15 and the
PC are as without it (an open parameter, the spec's decision D17; log 16). -/
def Obligations.EntryStackError : Prop :=
  ∀ (v : Nat) (level : BitVec 4) (kind : Kind) (s : State),
    ramAt s (sp s) → ramAt s (sp s + 2#16) → s.params.excPushStackCheck = .checked →
    (stackViolation s (sp s).toNat (sp s) = true ∨
      stackViolation s (sp s + 2#16).toNat (sp s + 2#16) = true) →
    (takeException v level kind s).intcon1 = putBit s.intcon1 2 true ∧
    ramWord (takeException v level kind s) (sp s).toNat = (curPc s).extractLsb' 0 16 ∧
    ramWord (takeException v level kind s) (sp s + 2#16).toNat
      = srl s ++ (BitVec.ofBool (ipl3 s) ++ (curPc s).extractLsb' 16 7) ∧
    sp (takeException v level kind s) = sp s + 4#16 ∧
    curPc (takeException v level kind s)
      = (progRead24 s ((if altivt s then 0x000104 else 0x000004) + 2 * v)).extractLsb' 1 22 ++ 0#1

/-- `RETFIE` right after entry, the frame in data RAM and inside the stack's bounds, gives back the state before:
PC, SR, CORCON and W15 and all else but the four bytes of the frame, the temporary buffer and the counter of free
values. So what `Select()` returned it returns again: a request that was not cleared is taken again at once. -/
def Obligations.RetfieUndoesEntry : Prop :=
  ∀ (v : Nat) (level : BitVec 4) (kind : Kind) (s : State),
    ramAt s (sp s) → ramAt s (sp s + 2#16) →
    stackViolation s (sp s).toNat (sp s) = false →
    stackViolation s (sp s + 2#16).toNat (sp s + 2#16) = false → ∃ t : State,
    exec .retfie (takeException v level kind s) = .next t ∧
    curPc t = curPc s ∧ sp t = sp s ∧
    (∀ a : Nat, a ≠ (sp s).toNat → a ≠ (sp s).toNat + 1 → a ≠ (sp s + 2#16).toNat →
      a ≠ (sp s + 2#16).toNat + 1 → ramByte t a = ramByte s a) ∧
    { t with
      pc := s.pc, w15 := s.w15, mem := s.mem, tempPc := s.tempPc, tempSrl := s.tempSrl, draws := s.draws } = s ∧
    select t = select s

/-! ### Readiness and arbitration -/

/-- The winner of the arbitration among ready interrupts. -/
def Obligations.WinnerOfArbitration : Prop :=
  ∀ s : State,
    (∀ q : Source, winner s = some q ↔
      intReady s q = true ∧
      ∀ r : Source, intReady s r = true →
        priorityOf s r < priorityOf s q ∨ (priorityOf s r = priorityOf s q ∧ q ≤ r)) ∧
    (winner s = none ↔ ∀ q : Source, intReady s q = false)

/-- `Select()`. -/
def Obligations.SelectTakesTrapsFirst : Prop :=
  ∀ s : State,
    (∀ t : Trap, trapReady t s = true → (∀ u : Trap, trapReady u s = true → u.level ≤ t.level) →
      select s = some ⟨t.vector, t.level, .trap⟩) ∧
    ((∀ t : Trap, trapReady t s = false) → ∀ q : Source, winner s = some q →
      select s = some ⟨8 + q.val, (priorityOf s q).setWidth 4, .interrupt⟩) ∧
    ((∀ t : Trap, trapReady t s = false) → (∀ q : Source, intReady s q = false) → select s = none)

/-- Level 0: such a source is never ready and never wakes the CPU, and its flag is still set. -/
def Obligations.LevelZeroIsDisabled : Prop :=
  ∀ (s : State) (q : Source), priorityOf s q = 0#3 →
    intReady s q = false ∧
    (sourceImplemented s.params q = true → flagOf (setFlag q s) q = true) ∧
    ((∀ r : Source, r ≠ q → intReq s r = false) → wake s = false)

/-- With the DISI latch at 1 a source of level 1 to 6 is not ready and keeps its flag, and it is ready when the latch
clears if it is requested above the CPU priority; the latch makes no difference to a source of level 7 or to any
trap. -/
def Obligations.DisiMasksLevelsOneToSix : Prop :=
  ∀ (s : State) (q : Source),
    (priorityOf s q ≤ 6#3 → intReady { s with disiLatch := true } q = false ∧
      flagOf { s with disiLatch := true } q = flagOf s q) ∧
    (intReq s q = true → cpuIpl s < (priorityOf s q).setWidth 4 →
      intReady { s with disiLatch := false } q = true) ∧
    (priorityOf s q = 7#3 →
      intReady { s with disiLatch := true } q = intReady { s with disiLatch := false } q) ∧
    (∀ t : Trap, trapReady t { s with disiLatch := true } = trapReady t { s with disiLatch := false })

/-- The CPU priority level is the 4-bit number IPL3 : IPL<2:0>, 0 at reset, and no interrupt is selected while
IPL3 is 1. -/
def Obligations.CpuPriorityLevel : Prop :=
  (∀ s : State, (cpuIpl s).toNat = (if s.corcon.getLsbD 3 then 8 else 0) + (s.sr.extractLsb' 5 3).toNat) ∧
  cpuIpl State.reset = 0#4 ∧
  (∀ (s : State) (e : Selected), s.corcon.getLsbD 3 = true → select s = some e → e.kind = .trap)

/-- With IPL3 = 0 every pending trap whose skid is used up is ready, whatever IPL<2:0>, NSTDIS, the enable bits and
the DISI latch are; and a ready trap is above the CPU priority (60_exceptions.md section 2; decision D16). -/
def Obligations.EveryTrapIsReady : Prop :=
  ∀ (t : Trap) (s : State),
    (ipl3 s = false → trapPending t s = true → skidLeft t s = 0 → trapReady t s = true) ∧
    (trapReady t s = true → cpuIpl s < t.level)

/-- The addresses of the two vector tables (60_exceptions.md section 1; rows 0 to 7 of the alternate table by the
spec's decision D3), that both tables lie below 0x000200, and the vector number, level, status bit and kind of each
of the five traps (60_exceptions.md sections 1 and 2). -/
def Obligations.VectorTables : Prop :=
  (∀ t : Trap, (t.vector, t.level, t.statusBit, t.hard) = match t with
    | .oscFail => (1, 14#4, 1, true)
    | .addrErr => (2, 13#4, 3, true)
    | .stkErr => (3, 12#4, 2, false)
    | .mathErr => (4, 11#4, 4, false)
    | .dmacErr => (5, 10#4, 5, false)) ∧
  ∀ (q : Source) (t : Trap),
    vectorAddr false (Source.vector q) = 0x000014 + 2 * q.val ∧
    vectorAddr true (Source.vector q) = 0x000114 + 2 * q.val ∧
    vectorAddr false t.vector = 0x000004 + 2 * t.vector ∧
    vectorAddr true t.vector = 0x000104 + 2 * t.vector ∧
    vectorAddr false (Source.vector q) ≤ 0x0000FE ∧ vectorAddr true (Source.vector q) ≤ 0x0001FE

/-! ### Traps -/

/-- What a hard trap raised by hardware does: the reset of a conflict, what `HARD_TRAP_BLOCKED` says at equal level,
the status bit otherwise (60_exceptions.md section 5; the spec's decisions D15 and D25; log 19). -/
def Obligations.HardTrapRaised : Prop :=
  ∀ s : State,
    (trapPending .oscFail s = true ∨ 13#4 < cpuIpl s →
      raiseHard .addrErr s = ⟨deviceReset .trapConflict s, true⟩) ∧
    (trapPending .oscFail s = false → cpuIpl s < 13#4 →
      raiseHard .addrErr s = ⟨setIntcon1Bit 3 s, false⟩) ∧
    (trapPending .oscFail s = false → cpuIpl s = 13#4 →
      raiseHard .addrErr s = match s.params.hardTrapBlocked with
        | .reset => ⟨deviceReset .trapConflict s, true⟩
        | .stall => ⟨{ setIntcon1Bit 3 s with stalled := true }, false⟩) ∧
    (cpuIpl s = 15#4 → raiseHard .oscFail s = ⟨deviceReset .trapConflict s, true⟩) ∧
    (cpuIpl s < 14#4 → raiseHard .oscFail s = ⟨setIntcon1Bit 1 s, false⟩) ∧
    (cpuIpl s = 14#4 →
      raiseHard .oscFail s = match s.params.hardTrapBlocked with
        | .reset => ⟨deviceReset .trapConflict s, true⟩
        | .stall => ⟨{ setIntcon1Bit 1 s with stalled := true }, false⟩) ∧
    (deviceReset .trapConflict s).trapr = true

/-- A soft trap raised by hardware: nothing where its status bit is already 1; else the bit is set and a skid of at
most `SOFT_TRAP_SKID` is drawn (60_exceptions.md section 2; the spec's decision D14; log 9). -/
def Obligations.SoftTrapRaised : Prop :=
  ∀ (t : Trap) (s : State), t.hard = false →
    (trapPending t s = true → raiseSoft t s = s) ∧
    (trapPending t s = false →
      (raiseSoft t s).intcon1 = putBit s.intcon1 t.statusBit true ∧
      trapPending t (raiseSoft t s) = true ∧
      skidLeft t (raiseSoft t s) ≤ s.params.softTrapSkid ∧
      (∀ u : Trap, u ≠ t →
        trapPending u (raiseSoft t s) = trapPending u s ∧ skidLeft u (raiseSoft t s) = skidLeft u s) ∧
      { raiseSoft t s with
        intcon1 := s.intcon1, skidStk := s.skidStk, skidMath := s.skidMath, skidDmac := s.skidDmac,
        draws := s.draws } = s)

/-- An oscillator failure event, where it meets no conflict and no equal level (those: `HardTrapRaised`). -/
def Obligations.OscillatorFailure : Prop :=
  ∀ s : State, cpuIpl s < 14#4 →
    (deliver .oscillatorFailure s).intcon1 = putBit s.intcon1 1 true ∧
    (deliver .oscillatorFailure s).cf = true ∧
    select (deliver .oscillatorFailure s) = some ⟨1, 14#4, .trap⟩ ∧
    { deliver .oscillatorFailure s with intcon1 := s.intcon1, cf := s.cf } = s

/-- A DMA write collision: DMACERR, the status bit of the soft trap of vector 5 and level 10, is set, and memory
stays as the CPU's write made it. -/
def Obligations.DmaWriteCollision : Prop :=
  ∀ s : State,
    (Trap.dmacErr.hard = false ∧ Trap.dmacErr.vector = 5 ∧ Trap.dmacErr.level = 10#4) ∧
    (deliver .dmaCollision s).intcon1 = putBit s.intcon1 5 true ∧
    (∀ a : Nat, ramByte (deliver .dmaCollision s) a = ramByte s a) ∧
    { deliver .dmaCollision s with intcon1 := s.intcon1, skidDmac := s.skidDmac, draws := s.draws } = s

/-- Divide by zero sets DIV0ERR and MATHERR, whatever the trap enables are. -/
def Obligations.DivideByZero : Prop :=
  ∀ (inhibit : Bool) (s : State),
    (act inhibit .divideByZero s).state.intcon1 = putBit (putBit s.intcon1 6 true) 4 true ∧
    (act inhibit .divideByZero s).reset = false ∧
    { (act inhibit .divideByZero s).state with
      intcon1 := s.intcon1, skidMath := s.skidMath, draws := s.draws } = s

/-- The math errors of accumulator A and B: a carry out of bit 31 with OVATE (OVBTE), a carry out of bit 39 with
COVTE, each alone or both in one operation; with the enable at 0 nothing in INTCON1 changes. That OA and OB are the
carry out of bit 31, and that the accumulator takes the result the DSP environment gives, is the spec's decision D1
and the model's inference (log 23). Nothing else changes. -/
def Obligations.AccumulatorOverflow : Prop :=
  ∀ (inhibit : Bool) (s : State) (v : Sys2Proof.Acc),
    (act inhibit (.accOp .a true false v) s).state.intcon1
      = (if ovate s then putBit (putBit s.intcon1 14 true) 4 true else s.intcon1) ∧
    (act inhibit (.accOp .b true false v) s).state.intcon1
      = (if ovbte s then putBit (putBit s.intcon1 13 true) 4 true else s.intcon1) ∧
    (act inhibit (.accOp .a false true v) s).state.intcon1
      = (if covte s then putBit (putBit s.intcon1 12 true) 4 true else s.intcon1) ∧
    (act inhibit (.accOp .b false true v) s).state.intcon1
      = (if covte s then putBit (putBit s.intcon1 11 true) 4 true else s.intcon1) ∧
    (∀ carry31 carry39 : Bool,
      (act inhibit (.accOp .a carry31 carry39 v) s).state.intcon1
        = (let first := if carry31 && ovate s then putBit (putBit s.intcon1 14 true) 4 true else s.intcon1
           if carry39 && covte s then putBit (putBit first 12 true) 4 true else first) ∧
      (act inhibit (.accOp .b carry31 carry39 v) s).state.intcon1
        = (let first := if carry31 && ovbte s then putBit (putBit s.intcon1 13 true) 4 true else s.intcon1
           if carry39 && covte s then putBit (putBit first 11 true) 4 true else first) ∧
      { (act inhibit (.accOp .a carry31 carry39 v) s).state with
        accA := s.accA, sr := s.sr, intcon1 := s.intcon1, skidMath := s.skidMath, draws := s.draws } = s ∧
      { (act inhibit (.accOp .b carry31 carry39 v) s).state with
        accB := s.accB, sr := s.sr, intcon1 := s.intcon1, skidMath := s.skidMath, draws := s.draws } = s ∧
      (act inhibit (.accOp .a carry31 carry39 v) s).state.sr = putBit s.sr 15 carry31 ∧
      (act inhibit (.accOp .a carry31 carry39 v) s).state.accA = v ∧
      (act inhibit (.accOp .b carry31 carry39 v) s).state.sr = putBit s.sr 14 carry31 ∧
      (act inhibit (.accOp .b carry31 carry39 v) s).state.accB = v)

/-- A shift by more than 16 either way sets SFTACERR and MATHERR and writes no accumulator. That a shift of at most 16
takes the result of the DSP environment and by itself raises nothing is the spec's decision D1 and the model's choice
(log 23). -/
def Obligations.AccumulatorShift : Prop :=
  ∀ (inhibit : Bool) (x : AccName) (amount : Int) (v : Sys2Proof.Acc) (s : State),
    (16 < amount ∨ amount < -16 →
      (act inhibit (.sftac x amount v) s).state.intcon1 = putBit (putBit s.intcon1 7 true) 4 true ∧
      (act inhibit (.sftac x amount v) s).state.accA = s.accA ∧
      (act inhibit (.sftac x amount v) s).state.accB = s.accB) ∧
    (-16 ≤ amount → amount ≤ 16 →
      (act inhibit (.sftac x amount v) s).state.intcon1 = s.intcon1 ∧
      (act inhibit (.sftac x amount v) s).state.accA = (if x = .a then v else s.accA) ∧
      (act inhibit (.sftac x amount v) s).state.accB = (if x = .b then v else s.accB))

/-! ### Requests -/

/-- The event `SetFlag(q)`: the flag of an implemented source is set whatever its enable and level are, every other
flag keeps its value, and nothing else changes; for a source that is not implemented nothing happens
(60_exceptions.md section 3; the spec's decision D36). -/
def Obligations.FlagSetByPeripheral : Prop :=
  ∀ (q : Source) (s : State),
    (sourceImplemented s.params q = true →
      flagOf (deliver (.setFlag q) s) q = true ∧
      (∀ r : Source, r ≠ q → flagOf (deliver (.setFlag q) s) r = flagOf s r) ∧
      { deliver (.setFlag q) s with ifs := s.ifs } = s) ∧
    (sourceImplemented s.params q = false → deliver (.setFlag q) s = s)

/-- A pin that goes to a level it did not have, on the edge its INTnEP bit selects, sets the flag of its source (INT0
to INT4: sources 0, 20, 29, 53, 54) and no other flag, and on the other edge, or with no change of level, sets none
(60_exceptions.md section 3; the spec's decision D32). -/
def Obligations.PinEdge : Prop :=
  (pinSource 0 = 0 ∧ pinSource 1 = 20 ∧ pinSource 2 = 29 ∧ pinSource 3 = 53 ∧ pinSource 4 = 54) ∧
  ∀ (n : Fin 5) (level : Bool) (s : State),
    (∀ r : Source, r ≠ pinSource n → flagOf (deliver (.pin n level) s) r = flagOf s r) ∧
    (∀ m : Fin 5, m ≠ n → (deliver (.pin n level) s).pins.getLsbD m.val = s.pins.getLsbD m.val) ∧
    (deliver (.pin n level) s).pins.getLsbD n.val = level ∧
    (s.pins.getLsbD n.val = !level → s.intcon2.getLsbD n.val = !level →
      sourceImplemented s.params (pinSource n) = true →
      flagOf (deliver (.pin n level) s) (pinSource n) = true) ∧
    (s.pins.getLsbD n.val = level ∨ s.intcon2.getLsbD n.val = level →
      (deliver (.pin n level) s).ifs = s.ifs) ∧
    { deliver (.pin n level) s with ifs := s.ifs, pins := s.pins } = s

/-! ### Software writes -/

/-- `SwWrite(SR, v)`: IPL<2:0> unless NSTDIS, N, OV, Z and C are written; RA, DA, DC, OAB, OA and OB keep their
values; SA, SB and SAB can be cleared and not set (40, section 4; the spec's decision D26; what the legends do to a
written bit: log 22). -/
def Obligations.WriteSr : Prop :=
  ∀ (v : Word) (s : State),
    ipl (swWrite .sr v s) = (if nstdis s then ipl s else v.extractLsb' 5 3) ∧
    (swWrite .sr v s).sr.extractLsb' 0 4 = v.extractLsb' 0 4 ∧
    (∀ i : Nat, i = 4 ∨ 8 ≤ i → (swWrite .sr v s).sr.getLsbD i = true → s.sr.getLsbD i = true) ∧
    (∀ i : Nat, i = 4 ∨ i = 8 ∨ i = 9 ∨ i = 11 ∨ i = 14 ∨ i = 15 →
      (swWrite .sr v s).sr.getLsbD i = s.sr.getLsbD i) ∧
    (∀ i : Nat, i = 10 ∨ i = 12 ∨ i = 13 →
      (swWrite .sr v s).sr.getLsbD i = (s.sr.getLsbD i && v.getLsbD i)) ∧
    oa (swWrite .sr v s) = oa s ∧ ob (swWrite .sr v s) = ob s ∧
    { swWrite .sr v s with sr := s.sr } = s

/-- `SwWrite(CORCON, v)`: IPL3 can be cleared and not set; DL and the unimplemented bits are not written; the other
bits are (40, section 4; the spec's decision D27; log 22). -/
def Obligations.WriteCorcon : Prop :=
  ∀ (v : Word) (s : State),
    ipl3 (swWrite .corcon v s) = (ipl3 s && v.getLsbD 3) ∧
    (swWrite .corcon v s).corcon.extractLsb' 0 3 = v.extractLsb' 0 3 ∧
    (swWrite .corcon v s).corcon.extractLsb' 4 4 = v.extractLsb' 4 4 ∧
    (swWrite .corcon v s).corcon.extractLsb' 8 3 = s.corcon.extractLsb' 8 3 ∧
    (swWrite .corcon v s).corcon.extractLsb' 11 2 = v.extractLsb' 11 2 ∧
    (readReg .corcon (swWrite .corcon v s)).extractLsb' 13 3 = 0#3 ∧
    { swWrite .corcon v s with corcon := s.corcon } = s

/-- `SwWrite(DISICNT, v)`: the count is v<13:0>; the DISI latch is cleared by 0 and never set (40, section 1; the
spec's decision D12). -/
def Obligations.WriteDisicnt : Prop :=
  ∀ (v : Word) (s : State),
    (swWrite .disicnt v s).disicnt = v.extractLsb' 0 14 ∧
    (v.extractLsb' 0 14 = 0#14 → (swWrite .disicnt v s).disiLatch = false) ∧
    (v.extractLsb' 0 14 ≠ 0#14 → (swWrite .disicnt v s).disiLatch = s.disiLatch) ∧
    { swWrite .disicnt v s with
      disicnt := s.disicnt, disiLatch := s.disiLatch, disiLoaded := s.disiLoaded } = s

/-- `SwWrite(INTCON1, v)`: every implemented bit is written, but a write of 0 to MATHERR while an enabled overflow
stands leaves MATHERR as it is (41, section 4; the spec's decision D29); a trap that is not pending afterwards has
no skid (log 9). A trap that is pending afterwards has the skid it had: where software writes 1 to a status bit that
hardware has set and whose skid still runs, the spec does not say what becomes of the skid, and that it runs on is
the model's choice (log 9, DESIGN CHOICE). -/
def Obligations.WriteIntcon1 : Prop :=
  ∀ (v : Word) (s : State),
    (∀ i : Nat, i ≠ 0 → i ≠ 4 → (swWrite .intcon1 v s).intcon1.getLsbD i = v.getLsbD i) ∧
    (readReg .intcon1 (swWrite .intcon1 v s)).getLsbD 0 = false ∧
    ((swWrite .intcon1 v s).intcon1.getLsbD 4
      = (v.getLsbD 4 ||
          (s.intcon1.getLsbD 4 &&
            ((s.intcon1.getLsbD 10 && s.sr.getLsbD 15) || (s.intcon1.getLsbD 9 && s.sr.getLsbD 14))))) ∧
    (∀ t : Trap, trapPending t (swWrite .intcon1 v s) = false → skidLeft t (swWrite .intcon1 v s) = 0) ∧
    (∀ t : Trap, trapPending t (swWrite .intcon1 v s) = true →
      skidLeft t (swWrite .intcon1 v s) = skidLeft t s) ∧
    { swWrite .intcon1 v s with
      intcon1 := s.intcon1, skidStk := s.skidStk, skidMath := s.skidMath, skidDmac := s.skidDmac } = s

/-- INTCON2<14> is the DISI latch, a software write does not change it, and it is 1 whenever `DISI` masks a source.
`SwWrite(INTCON2, v)` writes ALTIVT and INT0EP to INT4EP, bits 13:5 read 0, and nothing else changes (10_state.md
section 8). -/
def Obligations.WriteIntcon2 : Prop :=
  ∀ (v : Word) (s : State),
    (readReg .intcon2 s).getLsbD 14 = s.disiLatch ∧
    (readReg .intcon2 (swWrite .intcon2 v s)).getLsbD 14 = (readReg .intcon2 s).getLsbD 14 ∧
    (swWrite .intcon2 v s).disiLatch = s.disiLatch ∧
    (∀ q : Source, maskedByDisi s q = true → (readReg .intcon2 s).getLsbD 14 = true) ∧
    altivt (swWrite .intcon2 v s) = v.getLsbD 15 ∧
    (∀ n : Fin 5, edgeNegative (swWrite .intcon2 v s) n = v.getLsbD n.val) ∧
    (readReg .intcon2 (swWrite .intcon2 v s)).getLsbD 15 = v.getLsbD 15 ∧
    (readReg .intcon2 (swWrite .intcon2 v s)).extractLsb' 0 5 = v.extractLsb' 0 5 ∧
    (readReg .intcon2 (swWrite .intcon2 v s)).extractLsb' 5 9 = 0#9 ∧
    { swWrite .intcon2 v s with intcon2 := s.intcon2 } = s

/-- Software writes of the IFS, IEC and IPC registers: an implemented bit is written, an unimplemented one reads 0,
the bits that belong to no source among them (IFS7<15:6>, IEC7<15:6>, bit 3 of each field of an IPC register; the
spec's decisions D9, D10, D31), and no other register changes, of the same kind or of another. -/
def Obligations.WriteSourceRegisters : Prop :=
  ∀ (v : Word) (s : State) (q : Source),
    (sourceImplemented s.params q = true →
      flagOf (swWrite (.ifs (Source.flagReg q)) v s) q = v.getLsbD (q.val % 16) ∧
      enableOf (swWrite (.iec (Source.flagReg q)) v s) q = v.getLsbD (q.val % 16) ∧
      priorityOf (swWrite (.ipc (Source.priorityReg q)) v s) q = v.extractLsb' (4 * (q.val % 4)) 3) ∧
    (sourceImplemented s.params q = false →
      flagOf (swWrite (.ifs (Source.flagReg q)) v s) q = false ∧
      enableOf (swWrite (.iec (Source.flagReg q)) v s) q = false ∧
      priorityOf (swWrite (.ipc (Source.priorityReg q)) v s) q = 0#3 ∧ intReady s q = false) ∧
    { swWrite (.ifs (Source.flagReg q)) v s with ifs := s.ifs } = s ∧
    { swWrite (.iec (Source.flagReg q)) v s with iec := s.iec } = s ∧
    { swWrite (.ipc (Source.priorityReg q)) v s with ipc := s.ipc } = s ∧
    (∀ n m : Fin 8,
      { swWrite (.ifs n) v s with ifs := s.ifs } = s ∧ { swWrite (.iec n) v s with iec := s.iec } = s ∧
      (m ≠ n → (swWrite (.ifs n) v s).ifs[m] = s.ifs[m] ∧ (swWrite (.iec n) v s).iec[m] = s.iec[m])) ∧
    (∀ n m : Fin 30,
      { swWrite (.ipc n) v s with ipc := s.ipc } = s ∧
      (m ≠ n → (swWrite (.ipc n) v s).ipc[m] = s.ipc[m]) ∧
      ∀ k : Fin 4, (readReg (.ipc n) (swWrite (.ipc n) v s)).getLsbD (4 * k.val + 3) = false) ∧
    (readReg (.ifs 7) (swWrite (.ifs 7) v s)).extractLsb' 6 10 = 0#10 ∧
    (readReg (.iec 7) (swWrite (.iec 7) v s)).extractLsb' 6 10 = 0#10

/-- A write of W15 keeps its bit 0 at 0 (the spec's decision D41); a word written to SPLIM arms the stack limit and
a byte does not (an inference of the spec). -/
def Obligations.WriteW15AndSplim : Prop :=
  ∀ (v : Word) (b : Byte) (high : Bool) (s : State),
    readReg (.w 15) (swWrite (.w 15) v s) = v &&& 0xFFFE#16 ∧
    readReg .splim (swWrite .splim v s) = v ∧ (swWrite .splim v s).splimArmed = true ∧
    (swWriteByte .splim high b s).splimArmed = s.splimArmed ∧
    (readReg .splim (swWriteByte .splim high b s)).extractLsb' (if high then 8 else 0) 8 = b ∧
    (readReg .splim (swWriteByte .splim high b s)).extractLsb' (if high then 0 else 8) 8
      = s.splim.extractLsb' (if high then 0 else 8) 8

/-- The data space addresses of the interrupt controller's registers, whatever the parameters are (10_state.md
section 11, 11 section 2). -/
def Obligations.RegisterAddresses : Prop :=
  ∀ s : State,
    placeOf s 0x0080 = .reg .intcon1 ∧ placeOf s 0x0082 = .reg .intcon2 ∧
    (∀ n : Fin 8, placeOf s (0x0084 + 2 * n.val) = .reg (.ifs n)) ∧
    (∀ n : Fin 8, placeOf s (0x0094 + 2 * n.val) = .reg (.iec n)) ∧
    (∀ n : Fin 30, placeOf s (0x00A4 + 2 * n.val) = .reg (.ipc n))

/-! ### Data accesses of ordinary instructions -/

/-- Reads and writes of data space. A DMA write changes the one byte of data RAM and reaches nothing else (log 24). A
byte access reads or writes the one byte, and of a register the half that the byte order gives (the upper half of
what a byte read delivers is free: log 38); the two bytes of a word lie as the byte order says (log 15). At the data
address of a register a word read delivers the register, a word write is `SwWrite` of it and a bit manipulation
writes back its value with the one bit changed (20_memory.md section 1; log 14); in data RAM a bit manipulation does
the same to a word. An X-side or Y-side fetch inside the implemented memory of its side delivers the word there. A
write to unimplemented data space vanishes without a trap (the spec's decision D39).
The accesses that raise the address error, where the raise meets no conflict and no equal level (those:
`HardTrapRaised`): a word access and a bit manipulation at an odd address, a read (of either width, or of a bit
manipulation) of unimplemented data space, an X-side or Y-side fetch of a MAC-class instruction outside the
implemented memory of its side, which includes no memory of the other side. The write is not made and the value read
is free (the spec's decision D39; log 37). And the check of an address formed from W15 with an offset: a result above
0xFFFF, an address above an armed SPLIM or below 0x0800 raises the stack error, and the access is made at the address
modulo 0x10000 (the spec's decisions D39 and D40; log 28). -/
def Obligations.DataAccesses : Prop :=
  ∀ s : State,
    (∀ (a : Word) (v : Byte),
      (placeOf s a.toNat = .ram →
        ramByte (deliver (.dmaWrite a v) s) a.toNat = v ∧
        (∀ b : Nat, b ≠ a.toNat → ramByte (deliver (.dmaWrite a v) s) b = ramByte s b) ∧
        { deliver (.dmaWrite a v) s with mem := s.mem } = s) ∧
      (placeOf s a.toNat ≠ .ram → deliver (.dmaWrite a v) s = s)) ∧
    (∀ a v : Word, placeOf s a.toNat = .ram →
      ramByte (act false (.store (.abs a) .byte (.lit v)) s).state a.toNat = v.extractLsb' 0 8 ∧
      (∀ b : Nat, b ≠ a.toNat → ramByte (act false (.store (.abs a) .byte (.lit v)) s).state b = ramByte s b) ∧
      { (act false (.store (.abs a) .byte (.lit v)) s).state with mem := s.mem, draws := s.draws } = s ∧
      (act false (.load (.abs a) .byte) s).state.bus.extractLsb' 0 8 = ramByte s a.toNat ∧
      { (act false (.load (.abs a) .byte) s).state with bus := s.bus, draws := s.draws } = s) ∧
    (∀ a v : Word, ramAt s a →
      (s.params.byteOrder = .little →
        (act false (.load (.abs a) .word) s).state.bus = ramByte s (a.toNat + 1) ++ ramByte s a.toNat ∧
        ramByte (act false (.store (.abs a) .word (.lit v)) s).state a.toNat = v.extractLsb' 0 8 ∧
        ramByte (act false (.store (.abs a) .word (.lit v)) s).state (a.toNat + 1) = v.extractLsb' 8 8) ∧
      (s.params.byteOrder = .big →
        (act false (.load (.abs a) .word) s).state.bus = ramByte s a.toNat ++ ramByte s (a.toNat + 1) ∧
        ramByte (act false (.store (.abs a) .word (.lit v)) s).state a.toNat = v.extractLsb' 8 8 ∧
        ramByte (act false (.store (.abs a) .word (.lit v)) s).state (a.toNat + 1) = v.extractLsb' 0 8) ∧
      (∀ b : Nat, b ≠ a.toNat → b ≠ a.toNat + 1 →
        ramByte (act false (.store (.abs a) .word (.lit v)) s).state b = ramByte s b) ∧
      { (act false (.store (.abs a) .word (.lit v)) s).state with mem := s.mem, draws := s.draws } = s ∧
      { (act false (.load (.abs a) .word) s).state with bus := s.bus, draws := s.draws } = s) ∧
    (∀ (a v : Word) (r : Reg), placeOf s a.toNat = .reg r →
      let high := a.getLsbD 0 == decide (s.params.byteOrder = .little)
      (act false (.load (.abs a) .byte) s).state.bus.extractLsb' 0 8
        = (readReg r (countDraw s)).extractLsb' (if high then 8 else 0) 8 ∧
      { (act false (.load (.abs a) .byte) s).state with bus := s.bus, draws := s.draws } = s ∧
      (act false (.store (.abs a) .byte (.lit v)) s).state
        = swWriteByte r high (v.extractLsb' 0 8) (countDraw s)) ∧
    (∀ (a v : Word) (r : Reg), placeOf s a.toNat = .reg r → a.getLsbD 0 = false →
      act false (.load (.abs a) .word) s = Run.ok (setBus (readReg r (countDraw s)) (countDraw s)) ∧
      act false (.store (.abs a) .word (.lit v)) s = Run.ok (swWrite r v (countDraw s)) ∧
      ∀ (i : Fin 16) (b : Bool),
        act false (.modifyBit (.abs a) i b) s
          = Run.ok (swWrite r (putBit (readReg r (countDraw s)) i.val b) (countDraw s))) ∧
    (∀ (a : Word) (i : Fin 16) (b : Bool), ramAt s a →
      ramWord (act false (.modifyBit (.abs a) i b) s).state a.toNat = putBit (ramWord s a.toNat) i.val b ∧
      (∀ c : Nat, c ≠ a.toNat → c ≠ a.toNat + 1 →
        ramByte (act false (.modifyBit (.abs a) i b) s).state c = ramByte s c) ∧
      { (act false (.modifyBit (.abs a) i b) s).state with mem := s.mem, draws := s.draws } = s) ∧
    (∀ a : Word, a.getLsbD 0 = false → dataImplemented s a.toNat = true →
      (inRanges s.params.xSpace a.toNat = true → inRanges s.params.ySpace a.toNat = false →
        act false (.fetchX (.abs a)) s
          = Run.ok (setBus (readDataWord (countDraw s) a.toNat) (countDraw s))) ∧
      (inRanges s.params.ySpace a.toNat = true → inRanges s.params.xSpace a.toNat = false →
        act false (.fetchY (.abs a)) s
          = Run.ok (setBus (readDataWord (countDraw s) a.toNat) (countDraw s)))) ∧
    (∀ (a v : Word) (width : Width), placeOf s a.toNat = .absent → (width = .word → a.getLsbD 0 = false) →
      (act false (.store (.abs a) width (.lit v)) s).addrErr = false ∧
      { (act false (.store (.abs a) width (.lit v)) s).state with draws := s.draws } = s) ∧
    (trapPending .oscFail s = false → cpuIpl s < 13#4 →
      (∀ a v : Word, a.getLsbD 0 = true →
        (act false (.load (.abs a) .word) s).addrErr = true ∧
        (act false (.load (.abs a) .word) s).state.intcon1 = putBit s.intcon1 3 true ∧
        (act false (.store (.abs a) .word (.lit v)) s).addrErr = true ∧
        (act false (.store (.abs a) .word (.lit v)) s).state.intcon1 = putBit s.intcon1 3 true ∧
        (∀ b : Nat, ramByte (act false (.store (.abs a) .word (.lit v)) s).state b = ramByte s b) ∧
        { (act false (.store (.abs a) .word (.lit v)) s).state with
          intcon1 := s.intcon1, draws := s.draws } = s) ∧
      (∀ (a : Word) (i : Fin 16) (v : Bool), a.getLsbD 0 = true ∨ placeOf s a.toNat = .absent →
        (act false (.modifyBit (.abs a) i v) s).addrErr = true ∧
        (act false (.modifyBit (.abs a) i v) s).state.intcon1 = putBit s.intcon1 3 true ∧
        (∀ b : Nat, ramByte (act false (.modifyBit (.abs a) i v) s).state b = ramByte s b) ∧
        { (act false (.modifyBit (.abs a) i v) s).state with intcon1 := s.intcon1, draws := s.draws } = s) ∧
      (∀ (a : Word) (width : Width), placeOf s a.toNat = .absent →
        (act false (.load (.abs a) width) s).addrErr = true ∧
        (act false (.load (.abs a) width) s).state.intcon1 = putBit s.intcon1 3 true ∧
        { (act false (.load (.abs a) width) s).state with
          intcon1 := s.intcon1, draws := s.draws, bus := s.bus } = s) ∧
      (∀ a : Word, a.getLsbD 0 = true ∨
          ¬ (dataImplemented s a.toNat = true ∧ inRanges s.params.xSpace a.toNat = true ∧
            inRanges s.params.ySpace a.toNat = false) →
        (act false (.fetchX (.abs a)) s).addrErr = true ∧
        (act false (.fetchX (.abs a)) s).state.intcon1 = putBit s.intcon1 3 true) ∧
      (∀ a : Word, a.getLsbD 0 = true ∨
          ¬ (dataImplemented s a.toNat = true ∧ inRanges s.params.ySpace a.toNat = true ∧
            inRanges s.params.xSpace a.toNat = false) →
        (act false (.fetchY (.abs a)) s).addrErr = true ∧
        (act false (.fetchY (.abs a)) s).state.intcon1 = putBit s.intcon1 3 true)) ∧
    (∀ (offset : Int) (v ea : Word), ea = BitVec.ofInt 16 ((sp s).toNat + offset) → ramAt s ea →
      ramWord (act false (.store (.w15 offset) .word (.lit v)) s).state ea.toNat = v ∧
      (∀ b : Nat, b ≠ ea.toNat → b ≠ ea.toNat + 1 →
        ramByte (act false (.store (.w15 offset) .word (.lit v)) s).state b = ramByte s b) ∧
      (act false (.load (.w15 offset) .word) s).state.bus = ramWord s ea.toNat ∧
      (0xFFFF < (sp s).toNat + offset ∨ (s.splimArmed = true ∧ s.splim < ea) ∨ ea < 0x0800#16 →
        (act false (.store (.w15 offset) .word (.lit v)) s).state.intcon1 = putBit s.intcon1 2 true ∧
        (act false (.load (.w15 offset) .word) s).state.intcon1 = putBit s.intcon1 2 true) ∧
      ((sp s).toNat + offset ≤ 0xFFFF → (s.splimArmed = false ∨ ea ≤ s.splim) → 0x0800#16 ≤ ea →
        (act false (.store (.w15 offset) .word (.lit v)) s).state.intcon1 = s.intcon1 ∧
        (act false (.load (.w15 offset) .word) s).state.intcon1 = s.intcon1) ∧
      { (act false (.store (.w15 offset) .word (.lit v)) s).state with
        mem := s.mem, intcon1 := s.intcon1, skidStk := s.skidStk, draws := s.draws } = s ∧
      { (act false (.load (.w15 offset) .word) s).state with
        bus := s.bus, intcon1 := s.intcon1, skidStk := s.skidStk, draws := s.draws } = s)

/-- An ordinary instruction, of any actions and any successor, that raises an address error, by an access or by a
literal target in unimplemented program memory, and whose effects do not end in a device reset, leaves every byte of
data memory, every register of the interrupt controller, CORCON, SPLIM, DISICNT, IPL<2:0>, TRAPR and CF as they were,
but for the bits of INTCON1 that hardware sets; and an error of an access leaves ADDRERR set, also where one of the
writes that do not take place led to it (the spec's decision D37; log 18). The rest of SR, W0 to W15, the
accumulators and `bus` may change. -/
def Obligations.AddressErrorInhibitsWrites : Prop :=
  ∀ (o : OrdInstr) (s : State),
    let r := effects (o.succ.addressError s) o.acts s
    (actAll false o.acts s).addrErr = true ∨ o.succ.addressError s = true → r.reset = false →
    (∀ a : Nat, ramByte r.state a = ramByte s a) ∧
    r.state.ifs = s.ifs ∧ r.state.iec = s.iec ∧ r.state.ipc = s.ipc ∧ r.state.intcon2 = s.intcon2 ∧
    r.state.corcon = s.corcon ∧ r.state.splim = s.splim ∧ r.state.splimArmed = s.splimArmed ∧
    r.state.disicnt = s.disicnt ∧ r.state.disiLatch = s.disiLatch ∧ ipl r.state = ipl s ∧
    r.state.trapr = s.trapr ∧ r.state.cf = s.cf ∧
    (∀ i : Nat, s.intcon1.getLsbD i = true → r.state.intcon1.getLsbD i = true) ∧
    (o.succ.addressError s = false → r.addrErr = true ∧ trapPending .addrErr r.state = true) ∧
    runOrdinary o s = succeed o.succ r.state

/-! ### The whole machine -/

/-- No ordinary instruction, of any actions, sets IPL3: software can clear it and not set it (the spec's decision
D27). -/
def Obligations.SoftwareNeverSetsIpl3 : Prop :=
  ∀ (o : OrdInstr) (s : State), ipl3 s = false → ipl3 (runOrdinary o s) = false

/-- No ordinary instruction, of any actions, sets the DISI latch: a write to DISICNT disables nothing by itself (the
spec's decision D12). -/
def Obligations.NoOrdinaryInstructionSetsTheLatch : Prop :=
  ∀ (o : OrdInstr) (s : State), s.disiLatch = false → (runOrdinary o s).disiLatch = false

/-- No step writes program memory or changes a parameter (20_memory.md section 1; log 1, log 5). -/
def Obligations.ProgramMemoryIsConstant : Prop :=
  ∀ s t : State, step s = .next t → t.prog = s.prog ∧ t.params = s.params

/-- Right after reset (70_reset_and_hazards.md section 1; DISICNT and IPC18 to IPC29 by the spec's decisions D21 and
D11); the values the model names itself (log 2) are not claimed. -/
def Obligations.ResetState : Prop :=
  curPc State.reset = 0x000000#23 ∧ sp State.reset = 0x0800#16 ∧ State.reset.splimArmed = false ∧
  readReg .sr State.reset = 0x0000#16 ∧ readReg .corcon State.reset = 0x0020#16 ∧
  readReg .disicnt State.reset = 0x0000#16 ∧ State.reset.disiLatch = false ∧
  readReg .intcon1 State.reset = 0x0000#16 ∧ readReg .intcon2 State.reset = 0x0000#16 ∧
  (∀ n : Fin 8, readReg (.ifs n) State.reset = 0x0000#16 ∧ readReg (.iec n) State.reset = 0x0000#16) ∧
  (∀ n : Fin 30, readReg (.ipc n) State.reset
    = if n.val = 3 ∨ n.val = 16 then 0x0444#16 else if n.val = 4 ∨ n.val = 15 then 0x4044#16
      else if n.val = 11 then 0x4404#16 else if 18 ≤ n.val then 0x0000#16 else 0x4444#16) ∧
  State.reset.power = .run ∧ (∀ t : Trap, skidLeft t State.reset = 0)

/-- The device reset of every cause, from every state (70_reset_and_hazards.md section 1; DISICNT, the latch, the skids
and the power mode by the spec's decision D21, IPC18 to IPC29 by D11): the registers, no trap pending, no request,
every implemented source at level 4. TRAPR is 1 after a hard-trap conflict, and the spec's inference in 40, section 3,
with its decision D35 leaves it as it was after `RESET` (log 3); after any other reset nothing is claimed of it. -/
def Obligations.DeviceResetValues : Prop :=
  ∀ (cause : ResetCause) (s : State),
    curPc (deviceReset cause s) = 0x000000#23 ∧ sp (deviceReset cause s) = 0x0800#16 ∧
    (deviceReset cause s).splimArmed = false ∧ (deviceReset cause s).sr = 0x0000#16 ∧
    (deviceReset cause s).corcon = 0x0020#16 ∧ (deviceReset cause s).disicnt = 0#14 ∧
    (deviceReset cause s).disiLatch = false ∧ (deviceReset cause s).power = .run ∧
    (deviceReset cause s).intcon1 = 0x0000#16 ∧ (deviceReset cause s).intcon2 = 0x0000#16 ∧
    (∀ t : Trap, trapPending t (deviceReset cause s) = false ∧ skidLeft t (deviceReset cause s) = 0) ∧
    (∀ q : Source, flagOf (deviceReset cause s) q = false ∧ enableOf (deviceReset cause s) q = false ∧
      priorityOf (deviceReset cause s) q = if sourceImplemented s.params q then 4#3 else 0#3) ∧
    select (deviceReset cause s) = none ∧
    (cause = .trapConflict → (deviceReset cause s).trapr = true) ∧
    (cause = .software → (deviceReset cause s).trapr = s.trapr) ∧
    (deviceReset cause s).prog = s.prog ∧ (deviceReset cause s).params = s.params

/-- The invariant holds right after reset. -/
def Obligations.InvariantAtReset : Prop := Inv State.reset

/-- Every step from a state with the invariant gives a state with it: canonical memories, an even PC and W15, no
unimplemented register bit stored, no skid without its pending trap, the DISI latch only with a count. -/
def Obligations.InvariantKept : Prop :=
  ∀ s t : State, Inv s → step s = .next t → Inv t
end

