-- ==== Sys2Proof/Laws/State.lean ====
section
/-! SUPPORT. One lemma per field for each named update of the state (`setPc`, `setSp`, `setIntcon1Bit`,
`setRamByte`, `setRamWord`, `captureReturn`, `enterPriority`, `fetchVector`, `countDraw`, `setBus`, `setSr`, `setSkid`,
`dropSkid`, `raiseSoft`): what the update writes, and that it leaves every other field. -/

namespace Sys2Proof.Machine

/-! ### `setPc` -/

@[simp] theorem setPc_pc (a : PAddr) (s : State) :
    (setPc a s).pc = evenPc a := rfl
@[simp] theorem setPc_w (a : PAddr) (s : State) :
    (setPc a s).w = s.w := rfl
@[simp] theorem setPc_w15 (a : PAddr) (s : State) :
    (setPc a s).w15 = s.w15 := rfl
@[simp] theorem setPc_splim (a : PAddr) (s : State) :
    (setPc a s).splim = s.splim := rfl
@[simp] theorem setPc_splimArmed (a : PAddr) (s : State) :
    (setPc a s).splimArmed = s.splimArmed := rfl
@[simp] theorem setPc_accA (a : PAddr) (s : State) :
    (setPc a s).accA = s.accA := rfl
@[simp] theorem setPc_accB (a : PAddr) (s : State) :
    (setPc a s).accB = s.accB := rfl
@[simp] theorem setPc_sr (a : PAddr) (s : State) :
    (setPc a s).sr = s.sr := rfl
@[simp] theorem setPc_corcon (a : PAddr) (s : State) :
    (setPc a s).corcon = s.corcon := rfl
@[simp] theorem setPc_disicnt (a : PAddr) (s : State) :
    (setPc a s).disicnt = s.disicnt := rfl
@[simp] theorem setPc_disiLatch (a : PAddr) (s : State) :
    (setPc a s).disiLatch = s.disiLatch := rfl
@[simp] theorem setPc_intcon1 (a : PAddr) (s : State) :
    (setPc a s).intcon1 = s.intcon1 := rfl
@[simp] theorem setPc_intcon2 (a : PAddr) (s : State) :
    (setPc a s).intcon2 = s.intcon2 := rfl
@[simp] theorem setPc_ifs (a : PAddr) (s : State) :
    (setPc a s).ifs = s.ifs := rfl
@[simp] theorem setPc_iec (a : PAddr) (s : State) :
    (setPc a s).iec = s.iec := rfl
@[simp] theorem setPc_ipc (a : PAddr) (s : State) :
    (setPc a s).ipc = s.ipc := rfl
@[simp] theorem setPc_trapr (a : PAddr) (s : State) :
    (setPc a s).trapr = s.trapr := rfl
@[simp] theorem setPc_cf (a : PAddr) (s : State) :
    (setPc a s).cf = s.cf := rfl
@[simp] theorem setPc_tempPc (a : PAddr) (s : State) :
    (setPc a s).tempPc = s.tempPc := rfl
@[simp] theorem setPc_tempSrl (a : PAddr) (s : State) :
    (setPc a s).tempSrl = s.tempSrl := rfl
@[simp] theorem setPc_power (a : PAddr) (s : State) :
    (setPc a s).power = s.power := rfl
@[simp] theorem setPc_skidStk (a : PAddr) (s : State) :
    (setPc a s).skidStk = s.skidStk := rfl
@[simp] theorem setPc_skidMath (a : PAddr) (s : State) :
    (setPc a s).skidMath = s.skidMath := rfl
@[simp] theorem setPc_skidDmac (a : PAddr) (s : State) :
    (setPc a s).skidDmac = s.skidDmac := rfl
@[simp] theorem setPc_pins (a : PAddr) (s : State) :
    (setPc a s).pins = s.pins := rfl
@[simp] theorem setPc_mem (a : PAddr) (s : State) :
    (setPc a s).mem = s.mem := rfl
@[simp] theorem setPc_prog (a : PAddr) (s : State) :
    (setPc a s).prog = s.prog := rfl
@[simp] theorem setPc_params (a : PAddr) (s : State) :
    (setPc a s).params = s.params := rfl
@[simp] theorem setPc_events (a : PAddr) (s : State) :
    (setPc a s).events = s.events := rfl
@[simp] theorem setPc_ordinary (a : PAddr) (s : State) :
    (setPc a s).ordinary = s.ordinary := rfl
@[simp] theorem setPc_draws (a : PAddr) (s : State) :
    (setPc a s).draws = s.draws := rfl
@[simp] theorem setPc_ramEpoch (a : PAddr) (s : State) :
    (setPc a s).ramEpoch = s.ramEpoch := rfl
@[simp] theorem setPc_bus (a : PAddr) (s : State) :
    (setPc a s).bus = s.bus := rfl
@[simp] theorem setPc_stalled (a : PAddr) (s : State) :
    (setPc a s).stalled = s.stalled := rfl
@[simp] theorem setPc_disiLoaded (a : PAddr) (s : State) :
    (setPc a s).disiLoaded = s.disiLoaded := rfl

/-! ### `setSp` -/

@[simp] theorem setSp_pc (v : Word) (s : State) :
    (setSp v s).pc = s.pc := rfl
@[simp] theorem setSp_w (v : Word) (s : State) :
    (setSp v s).w = s.w := rfl
@[simp] theorem setSp_w15 (v : Word) (s : State) :
    (setSp v s).w15 = v &&& 0xFFFE#16 := rfl
@[simp] theorem setSp_splim (v : Word) (s : State) :
    (setSp v s).splim = s.splim := rfl
@[simp] theorem setSp_splimArmed (v : Word) (s : State) :
    (setSp v s).splimArmed = s.splimArmed := rfl
@[simp] theorem setSp_accA (v : Word) (s : State) :
    (setSp v s).accA = s.accA := rfl
@[simp] theorem setSp_accB (v : Word) (s : State) :
    (setSp v s).accB = s.accB := rfl
@[simp] theorem setSp_sr (v : Word) (s : State) :
    (setSp v s).sr = s.sr := rfl
@[simp] theorem setSp_corcon (v : Word) (s : State) :
    (setSp v s).corcon = s.corcon := rfl
@[simp] theorem setSp_disicnt (v : Word) (s : State) :
    (setSp v s).disicnt = s.disicnt := rfl
@[simp] theorem setSp_disiLatch (v : Word) (s : State) :
    (setSp v s).disiLatch = s.disiLatch := rfl
@[simp] theorem setSp_intcon1 (v : Word) (s : State) :
    (setSp v s).intcon1 = s.intcon1 := rfl
@[simp] theorem setSp_intcon2 (v : Word) (s : State) :
    (setSp v s).intcon2 = s.intcon2 := rfl
@[simp] theorem setSp_ifs (v : Word) (s : State) :
    (setSp v s).ifs = s.ifs := rfl
@[simp] theorem setSp_iec (v : Word) (s : State) :
    (setSp v s).iec = s.iec := rfl
@[simp] theorem setSp_ipc (v : Word) (s : State) :
    (setSp v s).ipc = s.ipc := rfl
@[simp] theorem setSp_trapr (v : Word) (s : State) :
    (setSp v s).trapr = s.trapr := rfl
@[simp] theorem setSp_cf (v : Word) (s : State) :
    (setSp v s).cf = s.cf := rfl
@[simp] theorem setSp_tempPc (v : Word) (s : State) :
    (setSp v s).tempPc = s.tempPc := rfl
@[simp] theorem setSp_tempSrl (v : Word) (s : State) :
    (setSp v s).tempSrl = s.tempSrl := rfl
@[simp] theorem setSp_power (v : Word) (s : State) :
    (setSp v s).power = s.power := rfl
@[simp] theorem setSp_skidStk (v : Word) (s : State) :
    (setSp v s).skidStk = s.skidStk := rfl
@[simp] theorem setSp_skidMath (v : Word) (s : State) :
    (setSp v s).skidMath = s.skidMath := rfl
@[simp] theorem setSp_skidDmac (v : Word) (s : State) :
    (setSp v s).skidDmac = s.skidDmac := rfl
@[simp] theorem setSp_pins (v : Word) (s : State) :
    (setSp v s).pins = s.pins := rfl
@[simp] theorem setSp_mem (v : Word) (s : State) :
    (setSp v s).mem = s.mem := rfl
@[simp] theorem setSp_prog (v : Word) (s : State) :
    (setSp v s).prog = s.prog := rfl
@[simp] theorem setSp_params (v : Word) (s : State) :
    (setSp v s).params = s.params := rfl
@[simp] theorem setSp_events (v : Word) (s : State) :
    (setSp v s).events = s.events := rfl
@[simp] theorem setSp_ordinary (v : Word) (s : State) :
    (setSp v s).ordinary = s.ordinary := rfl
@[simp] theorem setSp_draws (v : Word) (s : State) :
    (setSp v s).draws = s.draws := rfl
@[simp] theorem setSp_ramEpoch (v : Word) (s : State) :
    (setSp v s).ramEpoch = s.ramEpoch := rfl
@[simp] theorem setSp_bus (v : Word) (s : State) :
    (setSp v s).bus = s.bus := rfl
@[simp] theorem setSp_stalled (v : Word) (s : State) :
    (setSp v s).stalled = s.stalled := rfl
@[simp] theorem setSp_disiLoaded (v : Word) (s : State) :
    (setSp v s).disiLoaded = s.disiLoaded := rfl

/-! ### `setIntcon1Bit` -/

@[simp] theorem setIntcon1Bit_pc (i : Nat) (s : State) :
    (setIntcon1Bit i s).pc = s.pc := rfl
@[simp] theorem setIntcon1Bit_w (i : Nat) (s : State) :
    (setIntcon1Bit i s).w = s.w := rfl
@[simp] theorem setIntcon1Bit_w15 (i : Nat) (s : State) :
    (setIntcon1Bit i s).w15 = s.w15 := rfl
@[simp] theorem setIntcon1Bit_splim (i : Nat) (s : State) :
    (setIntcon1Bit i s).splim = s.splim := rfl
@[simp] theorem setIntcon1Bit_splimArmed (i : Nat) (s : State) :
    (setIntcon1Bit i s).splimArmed = s.splimArmed := rfl
@[simp] theorem setIntcon1Bit_accA (i : Nat) (s : State) :
    (setIntcon1Bit i s).accA = s.accA := rfl
@[simp] theorem setIntcon1Bit_accB (i : Nat) (s : State) :
    (setIntcon1Bit i s).accB = s.accB := rfl
@[simp] theorem setIntcon1Bit_sr (i : Nat) (s : State) :
    (setIntcon1Bit i s).sr = s.sr := rfl
@[simp] theorem setIntcon1Bit_corcon (i : Nat) (s : State) :
    (setIntcon1Bit i s).corcon = s.corcon := rfl
@[simp] theorem setIntcon1Bit_disicnt (i : Nat) (s : State) :
    (setIntcon1Bit i s).disicnt = s.disicnt := rfl
@[simp] theorem setIntcon1Bit_disiLatch (i : Nat) (s : State) :
    (setIntcon1Bit i s).disiLatch = s.disiLatch := rfl
@[simp] theorem setIntcon1Bit_intcon1 (i : Nat) (s : State) :
    (setIntcon1Bit i s).intcon1 = putBit s.intcon1 i true := rfl
@[simp] theorem setIntcon1Bit_intcon2 (i : Nat) (s : State) :
    (setIntcon1Bit i s).intcon2 = s.intcon2 := rfl
@[simp] theorem setIntcon1Bit_ifs (i : Nat) (s : State) :
    (setIntcon1Bit i s).ifs = s.ifs := rfl
@[simp] theorem setIntcon1Bit_iec (i : Nat) (s : State) :
    (setIntcon1Bit i s).iec = s.iec := rfl
@[simp] theorem setIntcon1Bit_ipc (i : Nat) (s : State) :
    (setIntcon1Bit i s).ipc = s.ipc := rfl
@[simp] theorem setIntcon1Bit_trapr (i : Nat) (s : State) :
    (setIntcon1Bit i s).trapr = s.trapr := rfl
@[simp] theorem setIntcon1Bit_cf (i : Nat) (s : State) :
    (setIntcon1Bit i s).cf = s.cf := rfl
@[simp] theorem setIntcon1Bit_tempPc (i : Nat) (s : State) :
    (setIntcon1Bit i s).tempPc = s.tempPc := rfl
@[simp] theorem setIntcon1Bit_tempSrl (i : Nat) (s : State) :
    (setIntcon1Bit i s).tempSrl = s.tempSrl := rfl
@[simp] theorem setIntcon1Bit_power (i : Nat) (s : State) :
    (setIntcon1Bit i s).power = s.power := rfl
@[simp] theorem setIntcon1Bit_skidStk (i : Nat) (s : State) :
    (setIntcon1Bit i s).skidStk = s.skidStk := rfl
@[simp] theorem setIntcon1Bit_skidMath (i : Nat) (s : State) :
    (setIntcon1Bit i s).skidMath = s.skidMath := rfl
@[simp] theorem setIntcon1Bit_skidDmac (i : Nat) (s : State) :
    (setIntcon1Bit i s).skidDmac = s.skidDmac := rfl
@[simp] theorem setIntcon1Bit_pins (i : Nat) (s : State) :
    (setIntcon1Bit i s).pins = s.pins := rfl
@[simp] theorem setIntcon1Bit_mem (i : Nat) (s : State) :
    (setIntcon1Bit i s).mem = s.mem := rfl
@[simp] theorem setIntcon1Bit_prog (i : Nat) (s : State) :
    (setIntcon1Bit i s).prog = s.prog := rfl
@[simp] theorem setIntcon1Bit_params (i : Nat) (s : State) :
    (setIntcon1Bit i s).params = s.params := rfl
@[simp] theorem setIntcon1Bit_events (i : Nat) (s : State) :
    (setIntcon1Bit i s).events = s.events := rfl
@[simp] theorem setIntcon1Bit_ordinary (i : Nat) (s : State) :
    (setIntcon1Bit i s).ordinary = s.ordinary := rfl
@[simp] theorem setIntcon1Bit_draws (i : Nat) (s : State) :
    (setIntcon1Bit i s).draws = s.draws := rfl
@[simp] theorem setIntcon1Bit_ramEpoch (i : Nat) (s : State) :
    (setIntcon1Bit i s).ramEpoch = s.ramEpoch := rfl
@[simp] theorem setIntcon1Bit_bus (i : Nat) (s : State) :
    (setIntcon1Bit i s).bus = s.bus := rfl
@[simp] theorem setIntcon1Bit_stalled (i : Nat) (s : State) :
    (setIntcon1Bit i s).stalled = s.stalled := rfl
@[simp] theorem setIntcon1Bit_disiLoaded (i : Nat) (s : State) :
    (setIntcon1Bit i s).disiLoaded = s.disiLoaded := rfl

/-! ### `setRamByte` -/

@[simp] theorem setRamByte_pc (a : Nat) (v : Byte) (s : State) :
    (setRamByte a v s).pc = s.pc := rfl
@[simp] theorem setRamByte_w (a : Nat) (v : Byte) (s : State) :
    (setRamByte a v s).w = s.w := rfl
@[simp] theorem setRamByte_w15 (a : Nat) (v : Byte) (s : State) :
    (setRamByte a v s).w15 = s.w15 := rfl
@[simp] theorem setRamByte_splim (a : Nat) (v : Byte) (s : State) :
    (setRamByte a v s).splim = s.splim := rfl
@[simp] theorem setRamByte_splimArmed (a : Nat) (v : Byte) (s : State) :
    (setRamByte a v s).splimArmed = s.splimArmed := rfl
@[simp] theorem setRamByte_accA (a : Nat) (v : Byte) (s : State) :
    (setRamByte a v s).accA = s.accA := rfl
@[simp] theorem setRamByte_accB (a : Nat) (v : Byte) (s : State) :
    (setRamByte a v s).accB = s.accB := rfl
@[simp] theorem setRamByte_sr (a : Nat) (v : Byte) (s : State) :
    (setRamByte a v s).sr = s.sr := rfl
@[simp] theorem setRamByte_corcon (a : Nat) (v : Byte) (s : State) :
    (setRamByte a v s).corcon = s.corcon := rfl
@[simp] theorem setRamByte_disicnt (a : Nat) (v : Byte) (s : State) :
    (setRamByte a v s).disicnt = s.disicnt := rfl
@[simp] theorem setRamByte_disiLatch (a : Nat) (v : Byte) (s : State) :
    (setRamByte a v s).disiLatch = s.disiLatch := rfl
@[simp] theorem setRamByte_intcon1 (a : Nat) (v : Byte) (s : State) :
    (setRamByte a v s).intcon1 = s.intcon1 := rfl
@[simp] theorem setRamByte_intcon2 (a : Nat) (v : Byte) (s : State) :
    (setRamByte a v s).intcon2 = s.intcon2 := rfl
@[simp] theorem setRamByte_ifs (a : Nat) (v : Byte) (s : State) :
    (setRamByte a v s).ifs = s.ifs := rfl
@[simp] theorem setRamByte_iec (a : Nat) (v : Byte) (s : State) :
    (setRamByte a v s).iec = s.iec := rfl
@[simp] theorem setRamByte_ipc (a : Nat) (v : Byte) (s : State) :
    (setRamByte a v s).ipc = s.ipc := rfl
@[simp] theorem setRamByte_trapr (a : Nat) (v : Byte) (s : State) :
    (setRamByte a v s).trapr = s.trapr := rfl
@[simp] theorem setRamByte_cf (a : Nat) (v : Byte) (s : State) :
    (setRamByte a v s).cf = s.cf := rfl
@[simp] theorem setRamByte_tempPc (a : Nat) (v : Byte) (s : State) :
    (setRamByte a v s).tempPc = s.tempPc := rfl
@[simp] theorem setRamByte_tempSrl (a : Nat) (v : Byte) (s : State) :
    (setRamByte a v s).tempSrl = s.tempSrl := rfl
@[simp] theorem setRamByte_power (a : Nat) (v : Byte) (s : State) :
    (setRamByte a v s).power = s.power := rfl
@[simp] theorem setRamByte_skidStk (a : Nat) (v : Byte) (s : State) :
    (setRamByte a v s).skidStk = s.skidStk := rfl
@[simp] theorem setRamByte_skidMath (a : Nat) (v : Byte) (s : State) :
    (setRamByte a v s).skidMath = s.skidMath := rfl
@[simp] theorem setRamByte_skidDmac (a : Nat) (v : Byte) (s : State) :
    (setRamByte a v s).skidDmac = s.skidDmac := rfl
@[simp] theorem setRamByte_pins (a : Nat) (v : Byte) (s : State) :
    (setRamByte a v s).pins = s.pins := rfl
@[simp] theorem setRamByte_mem (a : Nat) (v : Byte) (s : State) :
    (setRamByte a v s).mem = Memory.store s.mem a v := rfl
@[simp] theorem setRamByte_prog (a : Nat) (v : Byte) (s : State) :
    (setRamByte a v s).prog = s.prog := rfl
@[simp] theorem setRamByte_params (a : Nat) (v : Byte) (s : State) :
    (setRamByte a v s).params = s.params := rfl
@[simp] theorem setRamByte_events (a : Nat) (v : Byte) (s : State) :
    (setRamByte a v s).events = s.events := rfl
@[simp] theorem setRamByte_ordinary (a : Nat) (v : Byte) (s : State) :
    (setRamByte a v s).ordinary = s.ordinary := rfl
@[simp] theorem setRamByte_draws (a : Nat) (v : Byte) (s : State) :
    (setRamByte a v s).draws = s.draws := rfl
@[simp] theorem setRamByte_ramEpoch (a : Nat) (v : Byte) (s : State) :
    (setRamByte a v s).ramEpoch = s.ramEpoch := rfl
@[simp] theorem setRamByte_bus (a : Nat) (v : Byte) (s : State) :
    (setRamByte a v s).bus = s.bus := rfl
@[simp] theorem setRamByte_stalled (a : Nat) (v : Byte) (s : State) :
    (setRamByte a v s).stalled = s.stalled := rfl
@[simp] theorem setRamByte_disiLoaded (a : Nat) (v : Byte) (s : State) :
    (setRamByte a v s).disiLoaded = s.disiLoaded := rfl

/-! ### `setRamWord` -/

@[simp] theorem setRamWord_pc (a : Nat) (v : Word) (s : State) :
    (setRamWord a v s).pc = s.pc := rfl
@[simp] theorem setRamWord_w (a : Nat) (v : Word) (s : State) :
    (setRamWord a v s).w = s.w := rfl
@[simp] theorem setRamWord_w15 (a : Nat) (v : Word) (s : State) :
    (setRamWord a v s).w15 = s.w15 := rfl
@[simp] theorem setRamWord_splim (a : Nat) (v : Word) (s : State) :
    (setRamWord a v s).splim = s.splim := rfl
@[simp] theorem setRamWord_splimArmed (a : Nat) (v : Word) (s : State) :
    (setRamWord a v s).splimArmed = s.splimArmed := rfl
@[simp] theorem setRamWord_accA (a : Nat) (v : Word) (s : State) :
    (setRamWord a v s).accA = s.accA := rfl
@[simp] theorem setRamWord_accB (a : Nat) (v : Word) (s : State) :
    (setRamWord a v s).accB = s.accB := rfl
@[simp] theorem setRamWord_sr (a : Nat) (v : Word) (s : State) :
    (setRamWord a v s).sr = s.sr := rfl
@[simp] theorem setRamWord_corcon (a : Nat) (v : Word) (s : State) :
    (setRamWord a v s).corcon = s.corcon := rfl
@[simp] theorem setRamWord_disicnt (a : Nat) (v : Word) (s : State) :
    (setRamWord a v s).disicnt = s.disicnt := rfl
@[simp] theorem setRamWord_disiLatch (a : Nat) (v : Word) (s : State) :
    (setRamWord a v s).disiLatch = s.disiLatch := rfl
@[simp] theorem setRamWord_intcon1 (a : Nat) (v : Word) (s : State) :
    (setRamWord a v s).intcon1 = s.intcon1 := rfl
@[simp] theorem setRamWord_intcon2 (a : Nat) (v : Word) (s : State) :
    (setRamWord a v s).intcon2 = s.intcon2 := rfl
@[simp] theorem setRamWord_ifs (a : Nat) (v : Word) (s : State) :
    (setRamWord a v s).ifs = s.ifs := rfl
@[simp] theorem setRamWord_iec (a : Nat) (v : Word) (s : State) :
    (setRamWord a v s).iec = s.iec := rfl
@[simp] theorem setRamWord_ipc (a : Nat) (v : Word) (s : State) :
    (setRamWord a v s).ipc = s.ipc := rfl
@[simp] theorem setRamWord_trapr (a : Nat) (v : Word) (s : State) :
    (setRamWord a v s).trapr = s.trapr := rfl
@[simp] theorem setRamWord_cf (a : Nat) (v : Word) (s : State) :
    (setRamWord a v s).cf = s.cf := rfl
@[simp] theorem setRamWord_tempPc (a : Nat) (v : Word) (s : State) :
    (setRamWord a v s).tempPc = s.tempPc := rfl
@[simp] theorem setRamWord_tempSrl (a : Nat) (v : Word) (s : State) :
    (setRamWord a v s).tempSrl = s.tempSrl := rfl
@[simp] theorem setRamWord_power (a : Nat) (v : Word) (s : State) :
    (setRamWord a v s).power = s.power := rfl
@[simp] theorem setRamWord_skidStk (a : Nat) (v : Word) (s : State) :
    (setRamWord a v s).skidStk = s.skidStk := rfl
@[simp] theorem setRamWord_skidMath (a : Nat) (v : Word) (s : State) :
    (setRamWord a v s).skidMath = s.skidMath := rfl
@[simp] theorem setRamWord_skidDmac (a : Nat) (v : Word) (s : State) :
    (setRamWord a v s).skidDmac = s.skidDmac := rfl
@[simp] theorem setRamWord_pins (a : Nat) (v : Word) (s : State) :
    (setRamWord a v s).pins = s.pins := rfl
@[simp] theorem setRamWord_prog (a : Nat) (v : Word) (s : State) :
    (setRamWord a v s).prog = s.prog := rfl
@[simp] theorem setRamWord_params (a : Nat) (v : Word) (s : State) :
    (setRamWord a v s).params = s.params := rfl
@[simp] theorem setRamWord_events (a : Nat) (v : Word) (s : State) :
    (setRamWord a v s).events = s.events := rfl
@[simp] theorem setRamWord_ordinary (a : Nat) (v : Word) (s : State) :
    (setRamWord a v s).ordinary = s.ordinary := rfl
@[simp] theorem setRamWord_draws (a : Nat) (v : Word) (s : State) :
    (setRamWord a v s).draws = s.draws := rfl
@[simp] theorem setRamWord_ramEpoch (a : Nat) (v : Word) (s : State) :
    (setRamWord a v s).ramEpoch = s.ramEpoch := rfl
@[simp] theorem setRamWord_bus (a : Nat) (v : Word) (s : State) :
    (setRamWord a v s).bus = s.bus := rfl
@[simp] theorem setRamWord_stalled (a : Nat) (v : Word) (s : State) :
    (setRamWord a v s).stalled = s.stalled := rfl
@[simp] theorem setRamWord_disiLoaded (a : Nat) (v : Word) (s : State) :
    (setRamWord a v s).disiLoaded = s.disiLoaded := rfl

/-! ### `captureReturn` -/

@[simp] theorem captureReturn_pc (s : State) :
    (captureReturn s).pc = s.pc := rfl
@[simp] theorem captureReturn_w (s : State) :
    (captureReturn s).w = s.w := rfl
@[simp] theorem captureReturn_w15 (s : State) :
    (captureReturn s).w15 = s.w15 := rfl
@[simp] theorem captureReturn_splim (s : State) :
    (captureReturn s).splim = s.splim := rfl
@[simp] theorem captureReturn_splimArmed (s : State) :
    (captureReturn s).splimArmed = s.splimArmed := rfl
@[simp] theorem captureReturn_accA (s : State) :
    (captureReturn s).accA = s.accA := rfl
@[simp] theorem captureReturn_accB (s : State) :
    (captureReturn s).accB = s.accB := rfl
@[simp] theorem captureReturn_sr (s : State) :
    (captureReturn s).sr = s.sr := rfl
@[simp] theorem captureReturn_corcon (s : State) :
    (captureReturn s).corcon = s.corcon := rfl
@[simp] theorem captureReturn_disicnt (s : State) :
    (captureReturn s).disicnt = s.disicnt := rfl
@[simp] theorem captureReturn_disiLatch (s : State) :
    (captureReturn s).disiLatch = s.disiLatch := rfl
@[simp] theorem captureReturn_intcon1 (s : State) :
    (captureReturn s).intcon1 = s.intcon1 := rfl
@[simp] theorem captureReturn_intcon2 (s : State) :
    (captureReturn s).intcon2 = s.intcon2 := rfl
@[simp] theorem captureReturn_ifs (s : State) :
    (captureReturn s).ifs = s.ifs := rfl
@[simp] theorem captureReturn_iec (s : State) :
    (captureReturn s).iec = s.iec := rfl
@[simp] theorem captureReturn_ipc (s : State) :
    (captureReturn s).ipc = s.ipc := rfl
@[simp] theorem captureReturn_trapr (s : State) :
    (captureReturn s).trapr = s.trapr := rfl
@[simp] theorem captureReturn_cf (s : State) :
    (captureReturn s).cf = s.cf := rfl
@[simp] theorem captureReturn_power (s : State) :
    (captureReturn s).power = s.power := rfl
@[simp] theorem captureReturn_skidStk (s : State) :
    (captureReturn s).skidStk = s.skidStk := rfl
@[simp] theorem captureReturn_skidMath (s : State) :
    (captureReturn s).skidMath = s.skidMath := rfl
@[simp] theorem captureReturn_skidDmac (s : State) :
    (captureReturn s).skidDmac = s.skidDmac := rfl
@[simp] theorem captureReturn_pins (s : State) :
    (captureReturn s).pins = s.pins := rfl
@[simp] theorem captureReturn_mem (s : State) :
    (captureReturn s).mem = s.mem := rfl
@[simp] theorem captureReturn_prog (s : State) :
    (captureReturn s).prog = s.prog := rfl
@[simp] theorem captureReturn_params (s : State) :
    (captureReturn s).params = s.params := rfl
@[simp] theorem captureReturn_events (s : State) :
    (captureReturn s).events = s.events := rfl
@[simp] theorem captureReturn_ordinary (s : State) :
    (captureReturn s).ordinary = s.ordinary := rfl
@[simp] theorem captureReturn_draws (s : State) :
    (captureReturn s).draws = s.draws := rfl
@[simp] theorem captureReturn_ramEpoch (s : State) :
    (captureReturn s).ramEpoch = s.ramEpoch := rfl
@[simp] theorem captureReturn_bus (s : State) :
    (captureReturn s).bus = s.bus := rfl
@[simp] theorem captureReturn_stalled (s : State) :
    (captureReturn s).stalled = s.stalled := rfl
@[simp] theorem captureReturn_disiLoaded (s : State) :
    (captureReturn s).disiLoaded = s.disiLoaded := rfl

/-! ### `enterPriority` -/

@[simp] theorem enterPriority_pc (kind : Kind) (level : BitVec 4) (s : State) :
    (enterPriority kind level s).pc = s.pc := by cases kind <;> rfl
@[simp] theorem enterPriority_w (kind : Kind) (level : BitVec 4) (s : State) :
    (enterPriority kind level s).w = s.w := by cases kind <;> rfl
@[simp] theorem enterPriority_w15 (kind : Kind) (level : BitVec 4) (s : State) :
    (enterPriority kind level s).w15 = s.w15 := by cases kind <;> rfl
@[simp] theorem enterPriority_splim (kind : Kind) (level : BitVec 4) (s : State) :
    (enterPriority kind level s).splim = s.splim := by cases kind <;> rfl
@[simp] theorem enterPriority_splimArmed (kind : Kind) (level : BitVec 4) (s : State) :
    (enterPriority kind level s).splimArmed = s.splimArmed := by cases kind <;> rfl
@[simp] theorem enterPriority_accA (kind : Kind) (level : BitVec 4) (s : State) :
    (enterPriority kind level s).accA = s.accA := by cases kind <;> rfl
@[simp] theorem enterPriority_accB (kind : Kind) (level : BitVec 4) (s : State) :
    (enterPriority kind level s).accB = s.accB := by cases kind <;> rfl
@[simp] theorem enterPriority_disicnt (kind : Kind) (level : BitVec 4) (s : State) :
    (enterPriority kind level s).disicnt = s.disicnt := by cases kind <;> rfl
@[simp] theorem enterPriority_disiLatch (kind : Kind) (level : BitVec 4) (s : State) :
    (enterPriority kind level s).disiLatch = s.disiLatch := by cases kind <;> rfl
@[simp] theorem enterPriority_intcon1 (kind : Kind) (level : BitVec 4) (s : State) :
    (enterPriority kind level s).intcon1 = s.intcon1 := by cases kind <;> rfl
@[simp] theorem enterPriority_intcon2 (kind : Kind) (level : BitVec 4) (s : State) :
    (enterPriority kind level s).intcon2 = s.intcon2 := by cases kind <;> rfl
@[simp] theorem enterPriority_ifs (kind : Kind) (level : BitVec 4) (s : State) :
    (enterPriority kind level s).ifs = s.ifs := by cases kind <;> rfl
@[simp] theorem enterPriority_iec (kind : Kind) (level : BitVec 4) (s : State) :
    (enterPriority kind level s).iec = s.iec := by cases kind <;> rfl
@[simp] theorem enterPriority_ipc (kind : Kind) (level : BitVec 4) (s : State) :
    (enterPriority kind level s).ipc = s.ipc := by cases kind <;> rfl
@[simp] theorem enterPriority_trapr (kind : Kind) (level : BitVec 4) (s : State) :
    (enterPriority kind level s).trapr = s.trapr := by cases kind <;> rfl
@[simp] theorem enterPriority_cf (kind : Kind) (level : BitVec 4) (s : State) :
    (enterPriority kind level s).cf = s.cf := by cases kind <;> rfl
@[simp] theorem enterPriority_tempPc (kind : Kind) (level : BitVec 4) (s : State) :
    (enterPriority kind level s).tempPc = s.tempPc := by cases kind <;> rfl
@[simp] theorem enterPriority_tempSrl (kind : Kind) (level : BitVec 4) (s : State) :
    (enterPriority kind level s).tempSrl = s.tempSrl := by cases kind <;> rfl
@[simp] theorem enterPriority_power (kind : Kind) (level : BitVec 4) (s : State) :
    (enterPriority kind level s).power = s.power := by cases kind <;> rfl
@[simp] theorem enterPriority_skidStk (kind : Kind) (level : BitVec 4) (s : State) :
    (enterPriority kind level s).skidStk = s.skidStk := by cases kind <;> rfl
@[simp] theorem enterPriority_skidMath (kind : Kind) (level : BitVec 4) (s : State) :
    (enterPriority kind level s).skidMath = s.skidMath := by cases kind <;> rfl
@[simp] theorem enterPriority_skidDmac (kind : Kind) (level : BitVec 4) (s : State) :
    (enterPriority kind level s).skidDmac = s.skidDmac := by cases kind <;> rfl
@[simp] theorem enterPriority_pins (kind : Kind) (level : BitVec 4) (s : State) :
    (enterPriority kind level s).pins = s.pins := by cases kind <;> rfl
@[simp] theorem enterPriority_mem (kind : Kind) (level : BitVec 4) (s : State) :
    (enterPriority kind level s).mem = s.mem := by cases kind <;> rfl
@[simp] theorem enterPriority_prog (kind : Kind) (level : BitVec 4) (s : State) :
    (enterPriority kind level s).prog = s.prog := by cases kind <;> rfl
@[simp] theorem enterPriority_params (kind : Kind) (level : BitVec 4) (s : State) :
    (enterPriority kind level s).params = s.params := by cases kind <;> rfl
@[simp] theorem enterPriority_events (kind : Kind) (level : BitVec 4) (s : State) :
    (enterPriority kind level s).events = s.events := by cases kind <;> rfl
@[simp] theorem enterPriority_ordinary (kind : Kind) (level : BitVec 4) (s : State) :
    (enterPriority kind level s).ordinary = s.ordinary := by cases kind <;> rfl
@[simp] theorem enterPriority_draws (kind : Kind) (level : BitVec 4) (s : State) :
    (enterPriority kind level s).draws = s.draws := by cases kind <;> rfl
@[simp] theorem enterPriority_ramEpoch (kind : Kind) (level : BitVec 4) (s : State) :
    (enterPriority kind level s).ramEpoch = s.ramEpoch := by cases kind <;> rfl
@[simp] theorem enterPriority_bus (kind : Kind) (level : BitVec 4) (s : State) :
    (enterPriority kind level s).bus = s.bus := by cases kind <;> rfl
@[simp] theorem enterPriority_stalled (kind : Kind) (level : BitVec 4) (s : State) :
    (enterPriority kind level s).stalled = s.stalled := by cases kind <;> rfl
@[simp] theorem enterPriority_disiLoaded (kind : Kind) (level : BitVec 4) (s : State) :
    (enterPriority kind level s).disiLoaded = s.disiLoaded := by cases kind <;> rfl

/-! ### `fetchVector` -/

@[simp] theorem fetchVector_w (v : Nat) (s : State) :
    (fetchVector v s).w = s.w := rfl
@[simp] theorem fetchVector_w15 (v : Nat) (s : State) :
    (fetchVector v s).w15 = s.w15 := rfl
@[simp] theorem fetchVector_splim (v : Nat) (s : State) :
    (fetchVector v s).splim = s.splim := rfl
@[simp] theorem fetchVector_splimArmed (v : Nat) (s : State) :
    (fetchVector v s).splimArmed = s.splimArmed := rfl
@[simp] theorem fetchVector_accA (v : Nat) (s : State) :
    (fetchVector v s).accA = s.accA := rfl
@[simp] theorem fetchVector_accB (v : Nat) (s : State) :
    (fetchVector v s).accB = s.accB := rfl
@[simp] theorem fetchVector_sr (v : Nat) (s : State) :
    (fetchVector v s).sr = s.sr := rfl
@[simp] theorem fetchVector_corcon (v : Nat) (s : State) :
    (fetchVector v s).corcon = s.corcon := rfl
@[simp] theorem fetchVector_disicnt (v : Nat) (s : State) :
    (fetchVector v s).disicnt = s.disicnt := rfl
@[simp] theorem fetchVector_disiLatch (v : Nat) (s : State) :
    (fetchVector v s).disiLatch = s.disiLatch := rfl
@[simp] theorem fetchVector_intcon1 (v : Nat) (s : State) :
    (fetchVector v s).intcon1 = s.intcon1 := rfl
@[simp] theorem fetchVector_intcon2 (v : Nat) (s : State) :
    (fetchVector v s).intcon2 = s.intcon2 := rfl
@[simp] theorem fetchVector_ifs (v : Nat) (s : State) :
    (fetchVector v s).ifs = s.ifs := rfl
@[simp] theorem fetchVector_iec (v : Nat) (s : State) :
    (fetchVector v s).iec = s.iec := rfl
@[simp] theorem fetchVector_ipc (v : Nat) (s : State) :
    (fetchVector v s).ipc = s.ipc := rfl
@[simp] theorem fetchVector_trapr (v : Nat) (s : State) :
    (fetchVector v s).trapr = s.trapr := rfl
@[simp] theorem fetchVector_cf (v : Nat) (s : State) :
    (fetchVector v s).cf = s.cf := rfl
@[simp] theorem fetchVector_tempPc (v : Nat) (s : State) :
    (fetchVector v s).tempPc = s.tempPc := rfl
@[simp] theorem fetchVector_tempSrl (v : Nat) (s : State) :
    (fetchVector v s).tempSrl = s.tempSrl := rfl
@[simp] theorem fetchVector_power (v : Nat) (s : State) :
    (fetchVector v s).power = s.power := rfl
@[simp] theorem fetchVector_skidStk (v : Nat) (s : State) :
    (fetchVector v s).skidStk = s.skidStk := rfl
@[simp] theorem fetchVector_skidMath (v : Nat) (s : State) :
    (fetchVector v s).skidMath = s.skidMath := rfl
@[simp] theorem fetchVector_skidDmac (v : Nat) (s : State) :
    (fetchVector v s).skidDmac = s.skidDmac := rfl
@[simp] theorem fetchVector_pins (v : Nat) (s : State) :
    (fetchVector v s).pins = s.pins := rfl
@[simp] theorem fetchVector_mem (v : Nat) (s : State) :
    (fetchVector v s).mem = s.mem := rfl
@[simp] theorem fetchVector_prog (v : Nat) (s : State) :
    (fetchVector v s).prog = s.prog := rfl
@[simp] theorem fetchVector_params (v : Nat) (s : State) :
    (fetchVector v s).params = s.params := rfl
@[simp] theorem fetchVector_events (v : Nat) (s : State) :
    (fetchVector v s).events = s.events := rfl
@[simp] theorem fetchVector_ordinary (v : Nat) (s : State) :
    (fetchVector v s).ordinary = s.ordinary := rfl
@[simp] theorem fetchVector_draws (v : Nat) (s : State) :
    (fetchVector v s).draws = s.draws := rfl
@[simp] theorem fetchVector_ramEpoch (v : Nat) (s : State) :
    (fetchVector v s).ramEpoch = s.ramEpoch := rfl
@[simp] theorem fetchVector_bus (v : Nat) (s : State) :
    (fetchVector v s).bus = s.bus := rfl
@[simp] theorem fetchVector_stalled (v : Nat) (s : State) :
    (fetchVector v s).stalled = s.stalled := rfl
@[simp] theorem fetchVector_disiLoaded (v : Nat) (s : State) :
    (fetchVector v s).disiLoaded = s.disiLoaded := rfl

/-! ### `countDraw` -/

@[simp] theorem countDraw_pc (s : State) :
    (countDraw s).pc = s.pc := rfl
@[simp] theorem countDraw_w (s : State) :
    (countDraw s).w = s.w := rfl
@[simp] theorem countDraw_w15 (s : State) :
    (countDraw s).w15 = s.w15 := rfl
@[simp] theorem countDraw_splim (s : State) :
    (countDraw s).splim = s.splim := rfl
@[simp] theorem countDraw_splimArmed (s : State) :
    (countDraw s).splimArmed = s.splimArmed := rfl
@[simp] theorem countDraw_accA (s : State) :
    (countDraw s).accA = s.accA := rfl
@[simp] theorem countDraw_accB (s : State) :
    (countDraw s).accB = s.accB := rfl
@[simp] theorem countDraw_sr (s : State) :
    (countDraw s).sr = s.sr := rfl
@[simp] theorem countDraw_corcon (s : State) :
    (countDraw s).corcon = s.corcon := rfl
@[simp] theorem countDraw_disicnt (s : State) :
    (countDraw s).disicnt = s.disicnt := rfl
@[simp] theorem countDraw_disiLatch (s : State) :
    (countDraw s).disiLatch = s.disiLatch := rfl
@[simp] theorem countDraw_intcon1 (s : State) :
    (countDraw s).intcon1 = s.intcon1 := rfl
@[simp] theorem countDraw_intcon2 (s : State) :
    (countDraw s).intcon2 = s.intcon2 := rfl
@[simp] theorem countDraw_ifs (s : State) :
    (countDraw s).ifs = s.ifs := rfl
@[simp] theorem countDraw_iec (s : State) :
    (countDraw s).iec = s.iec := rfl
@[simp] theorem countDraw_ipc (s : State) :
    (countDraw s).ipc = s.ipc := rfl
@[simp] theorem countDraw_trapr (s : State) :
    (countDraw s).trapr = s.trapr := rfl
@[simp] theorem countDraw_cf (s : State) :
    (countDraw s).cf = s.cf := rfl
@[simp] theorem countDraw_tempPc (s : State) :
    (countDraw s).tempPc = s.tempPc := rfl
@[simp] theorem countDraw_tempSrl (s : State) :
    (countDraw s).tempSrl = s.tempSrl := rfl
@[simp] theorem countDraw_power (s : State) :
    (countDraw s).power = s.power := rfl
@[simp] theorem countDraw_skidStk (s : State) :
    (countDraw s).skidStk = s.skidStk := rfl
@[simp] theorem countDraw_skidMath (s : State) :
    (countDraw s).skidMath = s.skidMath := rfl
@[simp] theorem countDraw_skidDmac (s : State) :
    (countDraw s).skidDmac = s.skidDmac := rfl
@[simp] theorem countDraw_pins (s : State) :
    (countDraw s).pins = s.pins := rfl
@[simp] theorem countDraw_mem (s : State) :
    (countDraw s).mem = s.mem := rfl
@[simp] theorem countDraw_prog (s : State) :
    (countDraw s).prog = s.prog := rfl
@[simp] theorem countDraw_params (s : State) :
    (countDraw s).params = s.params := rfl
@[simp] theorem countDraw_events (s : State) :
    (countDraw s).events = s.events := rfl
@[simp] theorem countDraw_ordinary (s : State) :
    (countDraw s).ordinary = s.ordinary := rfl
@[simp] theorem countDraw_draws (s : State) :
    (countDraw s).draws = s.draws + 1 := rfl
@[simp] theorem countDraw_ramEpoch (s : State) :
    (countDraw s).ramEpoch = s.ramEpoch := rfl
@[simp] theorem countDraw_bus (s : State) :
    (countDraw s).bus = s.bus := rfl
@[simp] theorem countDraw_stalled (s : State) :
    (countDraw s).stalled = s.stalled := rfl
@[simp] theorem countDraw_disiLoaded (s : State) :
    (countDraw s).disiLoaded = s.disiLoaded := rfl

/-! ### `setBus` -/

@[simp] theorem setBus_pc (v : Word) (s : State) :
    (setBus v s).pc = s.pc := rfl
@[simp] theorem setBus_w (v : Word) (s : State) :
    (setBus v s).w = s.w := rfl
@[simp] theorem setBus_w15 (v : Word) (s : State) :
    (setBus v s).w15 = s.w15 := rfl
@[simp] theorem setBus_splim (v : Word) (s : State) :
    (setBus v s).splim = s.splim := rfl
@[simp] theorem setBus_splimArmed (v : Word) (s : State) :
    (setBus v s).splimArmed = s.splimArmed := rfl
@[simp] theorem setBus_accA (v : Word) (s : State) :
    (setBus v s).accA = s.accA := rfl
@[simp] theorem setBus_accB (v : Word) (s : State) :
    (setBus v s).accB = s.accB := rfl
@[simp] theorem setBus_sr (v : Word) (s : State) :
    (setBus v s).sr = s.sr := rfl
@[simp] theorem setBus_corcon (v : Word) (s : State) :
    (setBus v s).corcon = s.corcon := rfl
@[simp] theorem setBus_disicnt (v : Word) (s : State) :
    (setBus v s).disicnt = s.disicnt := rfl
@[simp] theorem setBus_disiLatch (v : Word) (s : State) :
    (setBus v s).disiLatch = s.disiLatch := rfl
@[simp] theorem setBus_intcon1 (v : Word) (s : State) :
    (setBus v s).intcon1 = s.intcon1 := rfl
@[simp] theorem setBus_intcon2 (v : Word) (s : State) :
    (setBus v s).intcon2 = s.intcon2 := rfl
@[simp] theorem setBus_ifs (v : Word) (s : State) :
    (setBus v s).ifs = s.ifs := rfl
@[simp] theorem setBus_iec (v : Word) (s : State) :
    (setBus v s).iec = s.iec := rfl
@[simp] theorem setBus_ipc (v : Word) (s : State) :
    (setBus v s).ipc = s.ipc := rfl
@[simp] theorem setBus_trapr (v : Word) (s : State) :
    (setBus v s).trapr = s.trapr := rfl
@[simp] theorem setBus_cf (v : Word) (s : State) :
    (setBus v s).cf = s.cf := rfl
@[simp] theorem setBus_tempPc (v : Word) (s : State) :
    (setBus v s).tempPc = s.tempPc := rfl
@[simp] theorem setBus_tempSrl (v : Word) (s : State) :
    (setBus v s).tempSrl = s.tempSrl := rfl
@[simp] theorem setBus_power (v : Word) (s : State) :
    (setBus v s).power = s.power := rfl
@[simp] theorem setBus_skidStk (v : Word) (s : State) :
    (setBus v s).skidStk = s.skidStk := rfl
@[simp] theorem setBus_skidMath (v : Word) (s : State) :
    (setBus v s).skidMath = s.skidMath := rfl
@[simp] theorem setBus_skidDmac (v : Word) (s : State) :
    (setBus v s).skidDmac = s.skidDmac := rfl
@[simp] theorem setBus_pins (v : Word) (s : State) :
    (setBus v s).pins = s.pins := rfl
@[simp] theorem setBus_mem (v : Word) (s : State) :
    (setBus v s).mem = s.mem := rfl
@[simp] theorem setBus_prog (v : Word) (s : State) :
    (setBus v s).prog = s.prog := rfl
@[simp] theorem setBus_params (v : Word) (s : State) :
    (setBus v s).params = s.params := rfl
@[simp] theorem setBus_events (v : Word) (s : State) :
    (setBus v s).events = s.events := rfl
@[simp] theorem setBus_ordinary (v : Word) (s : State) :
    (setBus v s).ordinary = s.ordinary := rfl
@[simp] theorem setBus_draws (v : Word) (s : State) :
    (setBus v s).draws = s.draws := rfl
@[simp] theorem setBus_ramEpoch (v : Word) (s : State) :
    (setBus v s).ramEpoch = s.ramEpoch := rfl
@[simp] theorem setBus_bus (v : Word) (s : State) :
    (setBus v s).bus = v := rfl
@[simp] theorem setBus_stalled (v : Word) (s : State) :
    (setBus v s).stalled = s.stalled := rfl
@[simp] theorem setBus_disiLoaded (v : Word) (s : State) :
    (setBus v s).disiLoaded = s.disiLoaded := rfl

/-! ### `setSr` -/

@[simp] theorem setSr_pc (v : Word) (s : State) :
    (setSr v s).pc = s.pc := rfl
@[simp] theorem setSr_w (v : Word) (s : State) :
    (setSr v s).w = s.w := rfl
@[simp] theorem setSr_w15 (v : Word) (s : State) :
    (setSr v s).w15 = s.w15 := rfl
@[simp] theorem setSr_splim (v : Word) (s : State) :
    (setSr v s).splim = s.splim := rfl
@[simp] theorem setSr_splimArmed (v : Word) (s : State) :
    (setSr v s).splimArmed = s.splimArmed := rfl
@[simp] theorem setSr_accA (v : Word) (s : State) :
    (setSr v s).accA = s.accA := rfl
@[simp] theorem setSr_accB (v : Word) (s : State) :
    (setSr v s).accB = s.accB := rfl
@[simp] theorem setSr_sr (v : Word) (s : State) :
    (setSr v s).sr = v := rfl
@[simp] theorem setSr_corcon (v : Word) (s : State) :
    (setSr v s).corcon = s.corcon := rfl
@[simp] theorem setSr_disicnt (v : Word) (s : State) :
    (setSr v s).disicnt = s.disicnt := rfl
@[simp] theorem setSr_disiLatch (v : Word) (s : State) :
    (setSr v s).disiLatch = s.disiLatch := rfl
@[simp] theorem setSr_intcon1 (v : Word) (s : State) :
    (setSr v s).intcon1 = s.intcon1 := rfl
@[simp] theorem setSr_intcon2 (v : Word) (s : State) :
    (setSr v s).intcon2 = s.intcon2 := rfl
@[simp] theorem setSr_ifs (v : Word) (s : State) :
    (setSr v s).ifs = s.ifs := rfl
@[simp] theorem setSr_iec (v : Word) (s : State) :
    (setSr v s).iec = s.iec := rfl
@[simp] theorem setSr_ipc (v : Word) (s : State) :
    (setSr v s).ipc = s.ipc := rfl
@[simp] theorem setSr_trapr (v : Word) (s : State) :
    (setSr v s).trapr = s.trapr := rfl
@[simp] theorem setSr_cf (v : Word) (s : State) :
    (setSr v s).cf = s.cf := rfl
@[simp] theorem setSr_tempPc (v : Word) (s : State) :
    (setSr v s).tempPc = s.tempPc := rfl
@[simp] theorem setSr_tempSrl (v : Word) (s : State) :
    (setSr v s).tempSrl = s.tempSrl := rfl
@[simp] theorem setSr_power (v : Word) (s : State) :
    (setSr v s).power = s.power := rfl
@[simp] theorem setSr_skidStk (v : Word) (s : State) :
    (setSr v s).skidStk = s.skidStk := rfl
@[simp] theorem setSr_skidMath (v : Word) (s : State) :
    (setSr v s).skidMath = s.skidMath := rfl
@[simp] theorem setSr_skidDmac (v : Word) (s : State) :
    (setSr v s).skidDmac = s.skidDmac := rfl
@[simp] theorem setSr_pins (v : Word) (s : State) :
    (setSr v s).pins = s.pins := rfl
@[simp] theorem setSr_mem (v : Word) (s : State) :
    (setSr v s).mem = s.mem := rfl
@[simp] theorem setSr_prog (v : Word) (s : State) :
    (setSr v s).prog = s.prog := rfl
@[simp] theorem setSr_params (v : Word) (s : State) :
    (setSr v s).params = s.params := rfl
@[simp] theorem setSr_events (v : Word) (s : State) :
    (setSr v s).events = s.events := rfl
@[simp] theorem setSr_ordinary (v : Word) (s : State) :
    (setSr v s).ordinary = s.ordinary := rfl
@[simp] theorem setSr_draws (v : Word) (s : State) :
    (setSr v s).draws = s.draws := rfl
@[simp] theorem setSr_ramEpoch (v : Word) (s : State) :
    (setSr v s).ramEpoch = s.ramEpoch := rfl
@[simp] theorem setSr_bus (v : Word) (s : State) :
    (setSr v s).bus = s.bus := rfl
@[simp] theorem setSr_stalled (v : Word) (s : State) :
    (setSr v s).stalled = s.stalled := rfl
@[simp] theorem setSr_disiLoaded (v : Word) (s : State) :
    (setSr v s).disiLoaded = s.disiLoaded := rfl

/-! ### `setSkid` -/

@[simp] theorem setSkid_pc (t : Trap) (k : Skid) (s : State) :
    (setSkid t k s).pc = s.pc := by cases t <;> rfl
@[simp] theorem setSkid_w (t : Trap) (k : Skid) (s : State) :
    (setSkid t k s).w = s.w := by cases t <;> rfl
@[simp] theorem setSkid_w15 (t : Trap) (k : Skid) (s : State) :
    (setSkid t k s).w15 = s.w15 := by cases t <;> rfl
@[simp] theorem setSkid_splim (t : Trap) (k : Skid) (s : State) :
    (setSkid t k s).splim = s.splim := by cases t <;> rfl
@[simp] theorem setSkid_splimArmed (t : Trap) (k : Skid) (s : State) :
    (setSkid t k s).splimArmed = s.splimArmed := by cases t <;> rfl
@[simp] theorem setSkid_accA (t : Trap) (k : Skid) (s : State) :
    (setSkid t k s).accA = s.accA := by cases t <;> rfl
@[simp] theorem setSkid_accB (t : Trap) (k : Skid) (s : State) :
    (setSkid t k s).accB = s.accB := by cases t <;> rfl
@[simp] theorem setSkid_sr (t : Trap) (k : Skid) (s : State) :
    (setSkid t k s).sr = s.sr := by cases t <;> rfl
@[simp] theorem setSkid_corcon (t : Trap) (k : Skid) (s : State) :
    (setSkid t k s).corcon = s.corcon := by cases t <;> rfl
@[simp] theorem setSkid_disicnt (t : Trap) (k : Skid) (s : State) :
    (setSkid t k s).disicnt = s.disicnt := by cases t <;> rfl
@[simp] theorem setSkid_disiLatch (t : Trap) (k : Skid) (s : State) :
    (setSkid t k s).disiLatch = s.disiLatch := by cases t <;> rfl
@[simp] theorem setSkid_intcon1 (t : Trap) (k : Skid) (s : State) :
    (setSkid t k s).intcon1 = s.intcon1 := by cases t <;> rfl
@[simp] theorem setSkid_intcon2 (t : Trap) (k : Skid) (s : State) :
    (setSkid t k s).intcon2 = s.intcon2 := by cases t <;> rfl
@[simp] theorem setSkid_ifs (t : Trap) (k : Skid) (s : State) :
    (setSkid t k s).ifs = s.ifs := by cases t <;> rfl
@[simp] theorem setSkid_iec (t : Trap) (k : Skid) (s : State) :
    (setSkid t k s).iec = s.iec := by cases t <;> rfl
@[simp] theorem setSkid_ipc (t : Trap) (k : Skid) (s : State) :
    (setSkid t k s).ipc = s.ipc := by cases t <;> rfl
@[simp] theorem setSkid_trapr (t : Trap) (k : Skid) (s : State) :
    (setSkid t k s).trapr = s.trapr := by cases t <;> rfl
@[simp] theorem setSkid_cf (t : Trap) (k : Skid) (s : State) :
    (setSkid t k s).cf = s.cf := by cases t <;> rfl
@[simp] theorem setSkid_tempPc (t : Trap) (k : Skid) (s : State) :
    (setSkid t k s).tempPc = s.tempPc := by cases t <;> rfl
@[simp] theorem setSkid_tempSrl (t : Trap) (k : Skid) (s : State) :
    (setSkid t k s).tempSrl = s.tempSrl := by cases t <;> rfl
@[simp] theorem setSkid_power (t : Trap) (k : Skid) (s : State) :
    (setSkid t k s).power = s.power := by cases t <;> rfl
@[simp] theorem setSkid_pins (t : Trap) (k : Skid) (s : State) :
    (setSkid t k s).pins = s.pins := by cases t <;> rfl
@[simp] theorem setSkid_mem (t : Trap) (k : Skid) (s : State) :
    (setSkid t k s).mem = s.mem := by cases t <;> rfl
@[simp] theorem setSkid_prog (t : Trap) (k : Skid) (s : State) :
    (setSkid t k s).prog = s.prog := by cases t <;> rfl
@[simp] theorem setSkid_params (t : Trap) (k : Skid) (s : State) :
    (setSkid t k s).params = s.params := by cases t <;> rfl
@[simp] theorem setSkid_events (t : Trap) (k : Skid) (s : State) :
    (setSkid t k s).events = s.events := by cases t <;> rfl
@[simp] theorem setSkid_ordinary (t : Trap) (k : Skid) (s : State) :
    (setSkid t k s).ordinary = s.ordinary := by cases t <;> rfl
@[simp] theorem setSkid_draws (t : Trap) (k : Skid) (s : State) :
    (setSkid t k s).draws = s.draws := by cases t <;> rfl
@[simp] theorem setSkid_ramEpoch (t : Trap) (k : Skid) (s : State) :
    (setSkid t k s).ramEpoch = s.ramEpoch := by cases t <;> rfl
@[simp] theorem setSkid_bus (t : Trap) (k : Skid) (s : State) :
    (setSkid t k s).bus = s.bus := by cases t <;> rfl
@[simp] theorem setSkid_stalled (t : Trap) (k : Skid) (s : State) :
    (setSkid t k s).stalled = s.stalled := by cases t <;> rfl
@[simp] theorem setSkid_disiLoaded (t : Trap) (k : Skid) (s : State) :
    (setSkid t k s).disiLoaded = s.disiLoaded := by cases t <;> rfl

/-! ### `dropSkid` -/

@[simp] theorem dropSkid_pc (t : Trap) (s : State) :
    (dropSkid t s).pc = s.pc := by unfold dropSkid; split <;> simp
@[simp] theorem dropSkid_w (t : Trap) (s : State) :
    (dropSkid t s).w = s.w := by unfold dropSkid; split <;> simp
@[simp] theorem dropSkid_w15 (t : Trap) (s : State) :
    (dropSkid t s).w15 = s.w15 := by unfold dropSkid; split <;> simp
@[simp] theorem dropSkid_splim (t : Trap) (s : State) :
    (dropSkid t s).splim = s.splim := by unfold dropSkid; split <;> simp
@[simp] theorem dropSkid_splimArmed (t : Trap) (s : State) :
    (dropSkid t s).splimArmed = s.splimArmed := by unfold dropSkid; split <;> simp
@[simp] theorem dropSkid_accA (t : Trap) (s : State) :
    (dropSkid t s).accA = s.accA := by unfold dropSkid; split <;> simp
@[simp] theorem dropSkid_accB (t : Trap) (s : State) :
    (dropSkid t s).accB = s.accB := by unfold dropSkid; split <;> simp
@[simp] theorem dropSkid_sr (t : Trap) (s : State) :
    (dropSkid t s).sr = s.sr := by unfold dropSkid; split <;> simp
@[simp] theorem dropSkid_corcon (t : Trap) (s : State) :
    (dropSkid t s).corcon = s.corcon := by unfold dropSkid; split <;> simp
@[simp] theorem dropSkid_disicnt (t : Trap) (s : State) :
    (dropSkid t s).disicnt = s.disicnt := by unfold dropSkid; split <;> simp
@[simp] theorem dropSkid_disiLatch (t : Trap) (s : State) :
    (dropSkid t s).disiLatch = s.disiLatch := by unfold dropSkid; split <;> simp
@[simp] theorem dropSkid_intcon1 (t : Trap) (s : State) :
    (dropSkid t s).intcon1 = s.intcon1 := by unfold dropSkid; split <;> simp
@[simp] theorem dropSkid_intcon2 (t : Trap) (s : State) :
    (dropSkid t s).intcon2 = s.intcon2 := by unfold dropSkid; split <;> simp
@[simp] theorem dropSkid_ifs (t : Trap) (s : State) :
    (dropSkid t s).ifs = s.ifs := by unfold dropSkid; split <;> simp
@[simp] theorem dropSkid_iec (t : Trap) (s : State) :
    (dropSkid t s).iec = s.iec := by unfold dropSkid; split <;> simp
@[simp] theorem dropSkid_ipc (t : Trap) (s : State) :
    (dropSkid t s).ipc = s.ipc := by unfold dropSkid; split <;> simp
@[simp] theorem dropSkid_trapr (t : Trap) (s : State) :
    (dropSkid t s).trapr = s.trapr := by unfold dropSkid; split <;> simp
@[simp] theorem dropSkid_cf (t : Trap) (s : State) :
    (dropSkid t s).cf = s.cf := by unfold dropSkid; split <;> simp
@[simp] theorem dropSkid_tempPc (t : Trap) (s : State) :
    (dropSkid t s).tempPc = s.tempPc := by unfold dropSkid; split <;> simp
@[simp] theorem dropSkid_tempSrl (t : Trap) (s : State) :
    (dropSkid t s).tempSrl = s.tempSrl := by unfold dropSkid; split <;> simp
@[simp] theorem dropSkid_power (t : Trap) (s : State) :
    (dropSkid t s).power = s.power := by unfold dropSkid; split <;> simp
@[simp] theorem dropSkid_pins (t : Trap) (s : State) :
    (dropSkid t s).pins = s.pins := by unfold dropSkid; split <;> simp
@[simp] theorem dropSkid_mem (t : Trap) (s : State) :
    (dropSkid t s).mem = s.mem := by unfold dropSkid; split <;> simp
@[simp] theorem dropSkid_prog (t : Trap) (s : State) :
    (dropSkid t s).prog = s.prog := by unfold dropSkid; split <;> simp
@[simp] theorem dropSkid_params (t : Trap) (s : State) :
    (dropSkid t s).params = s.params := by unfold dropSkid; split <;> simp
@[simp] theorem dropSkid_events (t : Trap) (s : State) :
    (dropSkid t s).events = s.events := by unfold dropSkid; split <;> simp
@[simp] theorem dropSkid_ordinary (t : Trap) (s : State) :
    (dropSkid t s).ordinary = s.ordinary := by unfold dropSkid; split <;> simp
@[simp] theorem dropSkid_draws (t : Trap) (s : State) :
    (dropSkid t s).draws = s.draws := by unfold dropSkid; split <;> simp
@[simp] theorem dropSkid_ramEpoch (t : Trap) (s : State) :
    (dropSkid t s).ramEpoch = s.ramEpoch := by unfold dropSkid; split <;> simp
@[simp] theorem dropSkid_bus (t : Trap) (s : State) :
    (dropSkid t s).bus = s.bus := by unfold dropSkid; split <;> simp
@[simp] theorem dropSkid_stalled (t : Trap) (s : State) :
    (dropSkid t s).stalled = s.stalled := by unfold dropSkid; split <;> simp
@[simp] theorem dropSkid_disiLoaded (t : Trap) (s : State) :
    (dropSkid t s).disiLoaded = s.disiLoaded := by unfold dropSkid; split <;> simp

/-! ### `raiseSoft` -/

@[simp] theorem raiseSoft_pc (t : Trap) (s : State) :
    (raiseSoft t s).pc = s.pc := by unfold raiseSoft; split <;> simp
@[simp] theorem raiseSoft_w (t : Trap) (s : State) :
    (raiseSoft t s).w = s.w := by unfold raiseSoft; split <;> simp
@[simp] theorem raiseSoft_w15 (t : Trap) (s : State) :
    (raiseSoft t s).w15 = s.w15 := by unfold raiseSoft; split <;> simp
@[simp] theorem raiseSoft_splim (t : Trap) (s : State) :
    (raiseSoft t s).splim = s.splim := by unfold raiseSoft; split <;> simp
@[simp] theorem raiseSoft_splimArmed (t : Trap) (s : State) :
    (raiseSoft t s).splimArmed = s.splimArmed := by unfold raiseSoft; split <;> simp
@[simp] theorem raiseSoft_accA (t : Trap) (s : State) :
    (raiseSoft t s).accA = s.accA := by unfold raiseSoft; split <;> simp
@[simp] theorem raiseSoft_accB (t : Trap) (s : State) :
    (raiseSoft t s).accB = s.accB := by unfold raiseSoft; split <;> simp
@[simp] theorem raiseSoft_sr (t : Trap) (s : State) :
    (raiseSoft t s).sr = s.sr := by unfold raiseSoft; split <;> simp
@[simp] theorem raiseSoft_corcon (t : Trap) (s : State) :
    (raiseSoft t s).corcon = s.corcon := by unfold raiseSoft; split <;> simp
@[simp] theorem raiseSoft_disicnt (t : Trap) (s : State) :
    (raiseSoft t s).disicnt = s.disicnt := by unfold raiseSoft; split <;> simp
@[simp] theorem raiseSoft_disiLatch (t : Trap) (s : State) :
    (raiseSoft t s).disiLatch = s.disiLatch := by unfold raiseSoft; split <;> simp
@[simp] theorem raiseSoft_intcon2 (t : Trap) (s : State) :
    (raiseSoft t s).intcon2 = s.intcon2 := by unfold raiseSoft; split <;> simp
@[simp] theorem raiseSoft_ifs (t : Trap) (s : State) :
    (raiseSoft t s).ifs = s.ifs := by unfold raiseSoft; split <;> simp
@[simp] theorem raiseSoft_iec (t : Trap) (s : State) :
    (raiseSoft t s).iec = s.iec := by unfold raiseSoft; split <;> simp
@[simp] theorem raiseSoft_ipc (t : Trap) (s : State) :
    (raiseSoft t s).ipc = s.ipc := by unfold raiseSoft; split <;> simp
@[simp] theorem raiseSoft_trapr (t : Trap) (s : State) :
    (raiseSoft t s).trapr = s.trapr := by unfold raiseSoft; split <;> simp
@[simp] theorem raiseSoft_cf (t : Trap) (s : State) :
    (raiseSoft t s).cf = s.cf := by unfold raiseSoft; split <;> simp
@[simp] theorem raiseSoft_tempPc (t : Trap) (s : State) :
    (raiseSoft t s).tempPc = s.tempPc := by unfold raiseSoft; split <;> simp
@[simp] theorem raiseSoft_tempSrl (t : Trap) (s : State) :
    (raiseSoft t s).tempSrl = s.tempSrl := by unfold raiseSoft; split <;> simp
@[simp] theorem raiseSoft_power (t : Trap) (s : State) :
    (raiseSoft t s).power = s.power := by unfold raiseSoft; split <;> simp
@[simp] theorem raiseSoft_pins (t : Trap) (s : State) :
    (raiseSoft t s).pins = s.pins := by unfold raiseSoft; split <;> simp
@[simp] theorem raiseSoft_mem (t : Trap) (s : State) :
    (raiseSoft t s).mem = s.mem := by unfold raiseSoft; split <;> simp
@[simp] theorem raiseSoft_prog (t : Trap) (s : State) :
    (raiseSoft t s).prog = s.prog := by unfold raiseSoft; split <;> simp
@[simp] theorem raiseSoft_params (t : Trap) (s : State) :
    (raiseSoft t s).params = s.params := by unfold raiseSoft; split <;> simp
@[simp] theorem raiseSoft_events (t : Trap) (s : State) :
    (raiseSoft t s).events = s.events := by unfold raiseSoft; split <;> simp
@[simp] theorem raiseSoft_ordinary (t : Trap) (s : State) :
    (raiseSoft t s).ordinary = s.ordinary := by unfold raiseSoft; split <;> simp
@[simp] theorem raiseSoft_ramEpoch (t : Trap) (s : State) :
    (raiseSoft t s).ramEpoch = s.ramEpoch := by unfold raiseSoft; split <;> simp
@[simp] theorem raiseSoft_bus (t : Trap) (s : State) :
    (raiseSoft t s).bus = s.bus := by unfold raiseSoft; split <;> simp
@[simp] theorem raiseSoft_stalled (t : Trap) (s : State) :
    (raiseSoft t s).stalled = s.stalled := by unfold raiseSoft; split <;> simp
@[simp] theorem raiseSoft_disiLoaded (t : Trap) (s : State) :
    (raiseSoft t s).disiLoaded = s.disiLoaded := by unfold raiseSoft; split <;> simp

end Sys2Proof.Machine
end

