-- ==== Sys2Proof/Laws/Memory.lean ====
section
/-! SUPPORT. Sparse memory: a read after a write, and the canonical form kept by every memory operation
(INVENTORY.md, Memory and ordering; log 4, log 5). -/

namespace Sys2Proof.Machine

theorem Memory.above_of_lt {α : Type} {lo lo' : Nat} (h : lo ≤ lo') :
    ∀ {m : List (Nat × α)}, Memory.above lo' m = true → Memory.above lo m = true
  | [], _ => rfl
  | (a, v) :: rest, hm => by
    simp only [Memory.above, Bool.and_eq_true, decide_eq_true_eq] at hm ⊢
    exact ⟨by omega, hm.2⟩

theorem Memory.above_store {α : Type} (x : Nat) (v : α) {lo : Nat} (hx : lo < x) :
    ∀ {m : List (Nat × α)}, Memory.above lo m = true → Memory.above lo (Memory.store m x v) = true
  | [], _ => by simp [Memory.store, Memory.above, hx]
  | (a, u) :: rest, hm => by
    simp only [Memory.above, Bool.and_eq_true, decide_eq_true_eq] at hm
    unfold Memory.store
    split
    · simp [Memory.above, *]
    · split
      · simp [Memory.above, *]
      · simp only [Memory.above, Bool.and_eq_true, decide_eq_true_eq]
        exact ⟨hm.1, Memory.above_store x v (by omega) hm.2⟩

/-- A write keeps the canonical form. -/
theorem Memory.store_wf {α : Type} (x : Nat) (v : α) :
    ∀ {m : List (Nat × α)}, Memory.wf m = true → Memory.wf (Memory.store m x v) = true
  | [], _ => rfl
  | (a, u) :: rest, hm => by
    simp only [Memory.wf] at hm
    unfold Memory.store
    split
    · simp [Memory.wf, Memory.above, *]
    · split
      · simpa [Memory.wf] using hm
      · exact Memory.above_store x v (by omega) hm

theorem Memory.above_mapCells {α : Type} (f : Nat → α → α) {lo : Nat} :
    ∀ {m : List (Nat × α)}, Memory.above lo m = true → Memory.above lo (Memory.mapCells f m) = true
  | [], _ => rfl
  | (a, v) :: rest, hm => by
    simp only [Memory.above, Memory.mapCells, Bool.and_eq_true] at hm ⊢
    exact ⟨hm.1, Memory.above_mapCells f hm.2⟩

/-- Changing the values keeps the canonical form. -/
theorem Memory.mapCells_wf {α : Type} (f : Nat → α → α) :
    ∀ {m : List (Nat × α)}, Memory.wf m = true → Memory.wf (Memory.mapCells f m) = true
  | [], _ => rfl
  | (_, _) :: _, hm => Memory.above_mapCells f hm

/-- A read of the cell just written. -/
@[simp] theorem Memory.lookup_store_same {α : Type} (x : Nat) (v : α) :
    ∀ m : List (Nat × α), Memory.lookup (Memory.store m x v) x = some v
  | [] => by simp [Memory.store, Memory.lookup]
  | (a, u) :: rest => by
    unfold Memory.store
    split
    · simp [Memory.lookup]
    · split
      · simp [Memory.lookup, *]
      · simp [Memory.lookup, Ne.symm ‹_›, Memory.lookup_store_same x v rest]

/-- A read of any other cell. -/
theorem Memory.lookup_store_other {α : Type} {x y : Nat} (v : α) (h : y ≠ x) :
    ∀ m : List (Nat × α), Memory.lookup (Memory.store m x v) y = Memory.lookup m y
  | [] => by simp [Memory.store, Memory.lookup, h.symm]
  | (a, u) :: rest => by
    unfold Memory.store
    split
    · simp [Memory.lookup, h.symm]
    · split
      · rename_i hx
        subst hx
        simp [Memory.lookup, h.symm]
      · simp only [Memory.lookup, Memory.lookup_store_other v h rest]

/-- A byte of RAM just written. -/
@[simp] theorem ramByte_setRamByte_same (a : Nat) (v : Byte) (s : State) : ramByte (setRamByte a v s) a = v := by
  simp [ramByte, setRamByte]

/-- Any other byte of RAM. -/
theorem ramByte_setRamByte_other {a b : Nat} (v : Byte) (s : State) (h : b ≠ a) :
    ramByte (setRamByte a v s) b = ramByte s b := by
  simp [ramByte, setRamByte, Memory.lookup_store_other v h]

theorem join_split (order : ByteOrder) (v : Word) :
    joinBytes order (splitWord order v).1 (splitWord order v).2 = v := by
  cases order <;> simp only [joinBytes, splitWord] <;> ext i hi <;> simp <;> grind

/-- A word of RAM just written. -/
@[simp] theorem ramWord_setRamWord_same (a : Nat) (v : Word) (s : State) : ramWord (setRamWord a v s) a = v := by
  have h : ramByte (setRamWord a v s) a = (splitWord s.params.byteOrder v).1 := by
    rw [setRamWord, ramByte_setRamByte_other _ _ (by omega), ramByte_setRamByte_same]
  have h' : ramByte (setRamWord a v s) (a + 1) = (splitWord s.params.byteOrder v).2 := by
    rw [setRamWord, ramByte_setRamByte_same]
  rw [ramWord, h, h']
  exact join_split _ v

/-- A byte outside a word of RAM just written. -/
theorem ramByte_setRamWord_other {a b : Nat} (v : Word) (s : State) (h : b ≠ a) (h' : b ≠ a + 1) :
    ramByte (setRamWord a v s) b = ramByte s b := by
  rw [setRamWord, ramByte_setRamByte_other _ _ h', ramByte_setRamByte_other _ _ h]

/-- A word of RAM beside a word just written. -/
theorem ramWord_setRamWord_other {a b : Nat} (v : Word) (s : State) (h : b + 1 < a ∨ a + 1 < b) :
    ramWord (setRamWord a v s) b = ramWord s b := by
  have hp : (setRamWord a v s).params = s.params := rfl
  rw [ramWord, ramWord, hp, ramByte_setRamWord_other v s (by omega) (by omega),
    ramByte_setRamWord_other v s (by omega) (by omega)]

/-- Data memory after a write of a word keeps its canonical form. -/
theorem setRamWord_wf (a : Nat) (v : Word) {s : State} (h : Memory.wf s.mem = true) :
    Memory.wf (setRamWord a v s).mem = true :=
  Memory.store_wf _ _ (Memory.store_wf _ _ h)

/-- The memories of the state after reset have their canonical form. -/
theorem reset_wf : Memory.wf State.reset.mem = true ∧ Memory.wf State.reset.prog = true := ⟨rfl, rfl⟩

end Sys2Proof.Machine
end

