-- ==== Sys2Proof/Laws/Kept.lean ====
section
/-! SUPPORT. Every shared operation keeps what `Kept` says (Safety.lean). -/

namespace Sys2Proof.Machine

/-! ### Bits -/

theorem getLsbD_putBit (v : Word) (i j : Nat) (b : Bool) :
    (putBit v i b).getLsbD j = if i = j ∧ j < 16 then b else v.getLsbD j := by
  unfold putBit
  by_cases hij : i = j
  · subst hij
    by_cases hi : i < 16
    · cases b <;> simp [hi]
    · have hv := BitVec.getLsbD_of_ge v i (by omega)
      cases b <;> simp [hi, hv]
  · by_cases hj : j < 16
    · cases b <;> simp [hij, hj] <;> omega
    · have hv := BitVec.getLsbD_of_ge v j (by omega)
      cases b <;> simp [hij, hj, hv]

theorem evenPc_bit0 (a : PAddr) : (evenPc a).getLsbD 0 = false := by simp [evenPc]

theorem evenSp_bit0 (v : Word) : (v &&& 0xFFFE#16).getLsbD 0 = false := by simp

theorem and_and_self (v m : Word) : v &&& m &&& m = v &&& m := by
  rw [BitVec.and_assoc, BitVec.and_self]

theorem getLsbD_of_and_eq {v m : Word} (h : v &&& m = v) {i : Nat} (hi : v.getLsbD i = true) :
    m.getLsbD i = true := by
  rw [← h, BitVec.getLsbD_and, Bool.and_eq_true] at hi
  exact hi.2

/-- A register masked with `m` is still so masked with a bit of `m` written. -/
theorem and_putBit {v m : Word} {i : Nat} (b : Bool) (h : v &&& m = v) (hi : m.getLsbD i = true) :
    putBit v i b &&& m = putBit v i b := by
  apply BitVec.eq_of_getLsbD_eq
  intro j hj
  rw [BitVec.getLsbD_and, getLsbD_putBit]
  split
  · rename_i hc
    obtain ⟨rfl, _⟩ := hc
    simp [hi]
  · cases hv : v.getLsbD j
    · simp
    · simp [getLsbD_of_and_eq h hv]

/-! ### Traps and skids -/

theorem trapPending_setIntcon1Bit (t : Trap) (i : Nat) (s : State) (h : trapPending t (setIntcon1Bit i s) = false) :
    trapPending t s = false := by
  simp only [trapPending, setIntcon1Bit, getLsbD_putBit] at h
  split at h
  · simp at h
  · exact h

theorem trapPending_setIntcon1Bit_self (t : Trap) (s : State) :
    trapPending t (setIntcon1Bit t.statusBit s) = true := by
  cases t <;> simp [trapPending, setIntcon1Bit, getLsbD_putBit, Trap.statusBit]

theorem trapPending_setSkid (u t : Trap) (k : Skid) (s : State) :
    trapPending u (setSkid t k s) = trapPending u s := by
  simp [trapPending]

theorem skidLeft_setSkid (u t : Trap) (k : Skid) (s : State) :
    skidLeft u (setSkid t k s) = if u = t ∧ t.hard = false then k.left else skidLeft u s := by
  cases u <;> cases t <;> simp [skidLeft, setSkid, Trap.hard]

theorem skidLeft_hard (t : Trap) (s : State) (h : t.hard = true) : skidLeft t s = 0 := by
  cases t <;> simp_all [skidLeft, Trap.hard]

/-! ### Named updates -/

theorem kept_setPc (a : PAddr) {s : State} (h : Kept s) : Kept (setPc a s) :=
  { h with pcEven := evenPc_bit0 a }

theorem kept_setSp (v : Word) {s : State} (h : Kept s) : Kept (setSp v s) :=
  { h with spEven := evenSp_bit0 v }

theorem kept_setRamByte (a : Nat) (v : Byte) {s : State} (h : Kept s) : Kept (setRamByte a v s) :=
  { h with memWf := Memory.store_wf _ _ h.memWf }

theorem kept_setRamWord (a : Nat) (v : Word) {s : State} (h : Kept s) : Kept (setRamWord a v s) :=
  kept_setRamByte _ _ (kept_setRamByte _ _ h)

theorem kept_setIntcon1Bit (i : Nat) (hi : i ≠ 0) {s : State} (h : Kept s) : Kept (setIntcon1Bit i s) :=
  { h with
    intcon1Implemented := by
      simp only [setIntcon1Bit, getLsbD_putBit]
      simpa [hi] using h.intcon1Implemented
    skidPending := fun t ht => h.skidPending t (trapPending_setIntcon1Bit t i s ht) }

theorem kept_setSkid (t : Trap) (k : Skid) {s : State} (hp : trapPending t s = true ∨ k.left = 0)
    (hk : k.left ≤ s.params.softTrapSkid) (h : Kept s) : Kept (setSkid t k s) where
  memWf := by simpa using h.memWf
  progWf := by simpa using h.progWf
  pcEven := by simpa using h.pcEven
  spEven := by simpa using h.spEven
  ifsImplemented := by simpa using h.ifsImplemented
  iecImplemented := by simpa using h.iecImplemented
  ipcImplemented := by simpa using h.ipcImplemented
  intcon1Implemented := by simpa using h.intcon1Implemented
  intcon2Implemented := by simpa using h.intcon2Implemented
  corconImplemented := by simpa using h.corconImplemented
  skidPending := by
    intro u hu
    rw [trapPending_setSkid] at hu
    rw [skidLeft_setSkid]
    split
    · rename_i hc
      obtain ⟨rfl, _⟩ := hc
      rcases hp with hp | hp
      · rw [hp] at hu
        cases hu
      · exact hp
    · exact h.skidPending u hu
  skidBound := by
    intro u
    rw [skidLeft_setSkid, setSkid_params]
    split
    · exact hk
    · exact h.skidBound u
  latchCounts := by simpa using h.latchCounts

theorem statusBit_ne_zero (t : Trap) : t.statusBit ≠ 0 := by cases t <;> decide

theorem drawnSkid_le (s : State) : drawnSkid s ≤ s.params.softTrapSkid :=
  Nat.le_of_lt_succ (Nat.mod_lt _ (Nat.succ_pos _))

theorem kept_raiseSoft (t : Trap) {s : State} (h : Kept s) : Kept (raiseSoft t s) := by
  unfold raiseSoft
  split
  · exact h
  · have h1 := kept_setSkid t ⟨drawnSkid s, true⟩ (.inl (trapPending_setIntcon1Bit_self t s)) (drawnSkid_le s)
      (kept_setIntcon1Bit _ (statusBit_ne_zero t) h)
    exact { h1 with }

theorem kept_countDraw {s : State} (h : Kept s) : Kept (countDraw s) := { h with }

theorem kept_raiseMath {detail : Nat} (hd : detail ≠ 0) {s : State} (h : Kept s) : Kept (raiseMath detail s) :=
  kept_raiseSoft _ (kept_setIntcon1Bit _ hd h)

/-! ### Device reset and hard traps -/

theorem kept_deviceReset (cause : ResetCause) {s : State} (h : Kept s) : Kept (deviceReset cause s) where
  memWf := Memory.mapCells_wf _ h.memWf
  progWf := h.progWf
  pcEven := by simp [deviceReset]
  spEven := by simp [deviceReset]
  ifsImplemented := by
    intro n
    simp [deviceReset]
  iecImplemented := by
    intro n
    simp [deviceReset]
  ipcImplemented := by
    intro n
    simp only [deviceReset, ipcAfterReset, Fin.getElem_fin, Vector.getElem_ofFn]
    rw [BitVec.and_comm (priorityMask _ _) 0x4444#16, and_and_self]
  intcon1Implemented := by simp [deviceReset]
  intcon2Implemented := by simp [deviceReset]
  corconImplemented := by simp [deviceReset]
  skidPending := by
    intro t _
    cases t <;> rfl
  skidBound := by
    intro t
    cases t <;> exact Nat.zero_le _
  latchCounts := by simp [deviceReset]

theorem kept_raiseHard (t : Trap) {s : State} (h : Kept s) : Kept (raiseHard t s).state := by
  unfold raiseHard
  split
  · exact kept_deviceReset _ h
  · split
    · split
      · exact kept_deviceReset _ h
      · exact { kept_setIntcon1Bit _ (statusBit_ne_zero t) h with }
    · exact kept_setIntcon1Bit _ (statusBit_ne_zero t) h

/-! ### Flags -/

theorem getLsbD_flagMask (p : Params) (q : Source) :
    (flagMask p (q.val / 16)).getLsbD (q.val % 16) = sourceImplemented p q := by
  have h : 16 * (q.val / 16) + q.val % 16 = q.val := by omega
  simp [flagMask, sourceImplemented, h, Nat.mod_lt]

/-- `SetFlag(q)` sets the flag of an implemented source. -/
theorem flagOf_setFlag_self {q : Source} {s : State} (h : sourceImplemented s.params q = true) :
    flagOf (setFlag q s) q = true := by
  have hm := getLsbD_flagMask s.params q
  have h16 : q.val % 16 < 16 := by omega
  simp only [setFlag, h, if_true, flagOf, ifsRead, Source.flagReg, Fin.getElem_fin, Vector.getElem_set_self,
    BitVec.getLsbD_and, getLsbD_putBit, hm, h16]
  rfl

/-- `SetFlag(q)` leaves the flag of every other source. -/
theorem flagOf_setFlag_other {q r : Source} (s : State) (h : r ≠ q) : flagOf (setFlag q s) r = flagOf s r := by
  unfold setFlag
  split
  · simp only [flagOf, ifsRead, Fin.getElem_fin, Vector.getElem_set]
    split
    · rename_i he
      have hd : q.val / 16 = r.val / 16 := he
      have hne : q.val % 16 ≠ r.val % 16 := fun hm => h (Fin.ext (by omega))
      simp only [BitVec.getLsbD_and, getLsbD_putBit, he]
      rw [if_neg fun x => hne x.1]
    · rfl
  · rfl

theorem kept_setFlag (q : Source) {s : State} (h : Kept s) : Kept (setFlag q s) := by
  unfold setFlag
  split
  · rename_i hq
    exact { h with
      ifsImplemented := by
        intro n
        simp only [Fin.getElem_fin, Vector.getElem_set]
        split
        · rename_i hn
          rw [← hn]
          refine and_putBit true ?_ ?_
          · exact h.ifsImplemented (Source.flagReg q)
          · exact (getLsbD_flagMask s.params q).trans hq
        · exact h.ifsImplemented n }
  · exact h

/-! ### Software writes -/

theorem kept_dropSkid (t : Trap) {s : State} (h : Kept s) : Kept (dropSkid t s) := by
  unfold dropSkid
  split
  · exact h
  · exact kept_setSkid t ⟨0, false⟩ (.inr rfl) (Nat.zero_le _) h

theorem corconWritten_implemented (s : State) (v : Word) :
    corconWritten s v &&& 0x1FFF#16 = corconWritten s v := by
  have : corconWritten s v = (s.corcon &&& 0x0700#16 ||| s.corcon &&& v &&& 0x0008#16 ||| v &&& 0x18F7#16) := rfl
  rw [this]
  apply BitVec.eq_of_getLsbD_eq
  intro i hi
  have e : ∀ j, j < 16 → (0x1FFF#16).getLsbD j =
      ((0x0700#16).getLsbD j || (0x0008#16).getLsbD j || (0x18F7#16).getLsbD j) := by decide
  simp only [BitVec.getLsbD_and, BitVec.getLsbD_or, e i hi]
  cases (0x0700#16).getLsbD i <;> cases (0x0008#16).getLsbD i <;> cases (0x18F7#16).getLsbD i <;> simp

theorem intcon1Written_bit0 (s : State) (v : Word) : (intcon1Written s v).getLsbD 0 = false := by
  unfold intcon1Written
  split
  · rw [getLsbD_putBit]
    simp
  · simp

theorem intcon2Written_implemented (v : Word) : v &&& 0x801F#16 &&& 0x801F#16 = v &&& 0x801F#16 :=
  and_and_self v _

theorem trapPending_dropSkid (u t : Trap) (s : State) : trapPending u (dropSkid t s) = trapPending u s := by
  simp [trapPending]

theorem skidLeft_dropSkid (u t : Trap) (s : State) :
    skidLeft u (dropSkid t s) = if u = t ∧ trapPending t s = false then 0 else skidLeft u s := by
  unfold dropSkid
  by_cases hp : trapPending t s = true
  · simp [hp]
  · rw [if_neg hp, skidLeft_setSkid]
    by_cases hu : u = t
    · subst hu
      by_cases hh : u.hard = true
      · simp [hh, skidLeft_hard u s hh, hp]
      · simp [hh, hp]
    · simp [hu]

theorem kept_writeIntcon1 (v : Word) {s : State} (h : Kept s) : Kept (swWrite .intcon1 v s) where
  memWf := by simpa [swWrite] using h.memWf
  progWf := by simpa [swWrite] using h.progWf
  pcEven := by simpa [swWrite] using h.pcEven
  spEven := by simpa [swWrite] using h.spEven
  ifsImplemented := by simpa [swWrite] using h.ifsImplemented
  iecImplemented := by simpa [swWrite] using h.iecImplemented
  ipcImplemented := by simpa [swWrite] using h.ipcImplemented
  intcon1Implemented := by simpa [swWrite] using intcon1Written_bit0 s v
  intcon2Implemented := by simpa [swWrite] using h.intcon2Implemented
  corconImplemented := by simpa [swWrite] using h.corconImplemented
  skidPending := by
    intro u hu
    simp only [swWrite, trapPending_dropSkid] at hu
    simp only [swWrite, skidLeft_dropSkid, trapPending_dropSkid]
    cases u <;> simp_all [skidLeft]
  skidBound := by
    intro u
    simp only [swWrite, skidLeft_dropSkid, dropSkid_params]
    have hb := h.skidBound u
    have e : ∀ x, skidLeft u { s with intcon1 := x } = skidLeft u s := fun _ => by cases u <;> rfl
    rw [e]
    split
    · exact Nat.zero_le _
    · split
      · exact Nat.zero_le _
      · split
        · exact Nat.zero_le _
        · exact hb
  latchCounts := by simpa [swWrite] using h.latchCounts

theorem kept_writeW (i : Fin 16) (v : Word) {s : State} (h : Kept s) : Kept (writeW i v s) := by
  unfold writeW
  split
  · exact { h with }
  · exact kept_setSp v h

/-- `SwWrite` keeps the invariant. -/
theorem kept_swWrite (r : Reg) (v : Word) {s : State} (h : Kept s) : Kept (swWrite r v s) := by
  cases r with
  | sr => exact { h with }
  | corcon => exact { h with corconImplemented := corconWritten_implemented s v }
  | disicnt =>
    exact { h with
      latchCounts := by
        intro _ hl
        simp only [swWrite, Bool.and_eq_true, bne_iff_ne] at hl
        exact hl.2 }
  | splim => exact { h with }
  | rcon => exact { h with }
  | osccon => exact { h with }
  | intcon1 => exact kept_writeIntcon1 v h
  | intcon2 => exact { h with intcon2Implemented := intcon2Written_implemented v }
  | ifs n =>
    exact { h with
      ifsImplemented := by
        intro k
        simp only [swWrite, Fin.getElem_fin, Vector.getElem_set]
        split
        · rename_i hk
          rw [← hk]
          exact and_and_self _ _
        · exact h.ifsImplemented k }
  | iec n =>
    exact { h with
      iecImplemented := by
        intro k
        simp only [swWrite, Fin.getElem_fin, Vector.getElem_set]
        split
        · rename_i hk
          rw [← hk]
          exact and_and_self _ _
        · exact h.iecImplemented k }
  | ipc n =>
    exact { h with
      ipcImplemented := by
        intro k
        simp only [swWrite, Fin.getElem_fin, Vector.getElem_set]
        split
        · rename_i hk
          rw [← hk]
          exact and_and_self _ _
        · exact h.ipcImplemented k }
  | w i => exact kept_writeW i v h

theorem kept_swWriteByte (r : Reg) (high : Bool) (b : Byte) {s : State} (h : Kept s) :
    Kept (swWriteByte r high b s) := by
  cases r <;> simp only [swWriteByte] <;> (try split) <;>
    first | exact h | exact kept_swWrite _ _ h | exact { h with }

theorem kept_swWriteBit (r : Reg) (i : Fin 16) (b : Bool) {s : State} (h : Kept s) :
    Kept (swWriteBit r i b s) :=
  kept_swWrite _ _ h

theorem kept_writeDataWord (a : Nat) (v : Word) {s : State} (h : Kept s) : Kept (writeDataWord a v s) := by
  unfold writeDataWord
  split
  · exact kept_swWrite _ _ h
  · exact kept_setRamWord _ _ h
  · exact h

theorem kept_writeDataByte (a : Nat) (v : Byte) {s : State} (h : Kept s) : Kept (writeDataByte a v s) := by
  unfold writeDataByte
  split
  · exact kept_swWriteByte _ _ _ h
  · exact kept_setRamByte _ _ h
  · exact h

/-! ### The stack -/

theorem kept_stackCheck (full : Int) (ea : Word) {s : State} (h : Kept s) : Kept (stackCheck full ea s) := by
  unfold stackCheck
  split
  · exact kept_raiseSoft _ h
  · exact h

theorem kept_pushWord (check : Bool) (v : Word) {s : State} (h : Kept s) : Kept (pushWord check v s) := by
  unfold pushWord
  apply kept_setSp
  split
  · exact kept_raiseSoft _ (kept_writeDataWord _ _ h)
  · exact kept_writeDataWord _ _ h

theorem kept_popWord {s : State} (h : Kept s) : Kept (popWord s).flow.state := by
  have h1 : Kept (stackCheck (sp (setSp (sp s - 2#16) s)).toNat (sp (setSp (sp s - 2#16) s))
      (countDraw (setSp (sp s - 2#16) s))) :=
    kept_stackCheck _ _ (kept_countDraw (kept_setSp _ h))
  unfold popWord
  dsimp only
  split
  · exact kept_raiseHard _ h1
  · exact h1

/-! ### Entry and return -/

theorem corcon_putBit3 {v : Word} (b : Bool) (h : v &&& 0x1FFF#16 = v) :
    putBit v 3 b &&& 0x1FFF#16 = putBit v 3 b :=
  and_putBit b h (by decide)

theorem kept_enterPriority (kind : Kind) (level : BitVec 4) {s : State} (h : Kept s) :
    Kept (enterPriority kind level s) := by
  cases kind with
  | trap => exact { h with corconImplemented := corcon_putBit3 true h.corconImplemented }
  | interrupt => exact { h with }

/-- Taking an exception keeps the invariant. -/
theorem kept_takeException (v : Nat) (level : BitVec 4) (kind : Kind) {s : State} (h : Kept s) :
    Kept (takeException v level kind s) :=
  kept_setPc _ (kept_enterPriority _ _ (kept_pushWord _ _ (kept_pushWord _ _ { h with })))

theorem kept_restoreFrame (high low : Word) {s : State} (h : Kept s) : Kept (restoreFrame high low s) :=
  kept_setPc _ { h with corconImplemented := corcon_putBit3 _ h.corconImplemented }

theorem kept_andThen {f : Flow} {k : State → Flow} (hf : Kept f.state)
    (hk : ∀ s, Kept s → Kept (k s).state) : Kept (f.andThen k).state := by
  unfold Flow.andThen
  split
  · exact hf
  · exact hk _ hf

/-- The return from an exception keeps the invariant. -/
theorem kept_returnFromException {s : State} (h : Kept s) : Kept (returnFromException s).state :=
  kept_andThen (kept_popWord h) fun _ h1 => kept_andThen (kept_popWord h1) fun _ h2 => kept_restoreFrame _ _ h2

/-! ### Counting -/

theorem kept_countDisi (cycles : Nat) {s : State} (h : Kept s) : Kept (countDisi cycles s) := by
  unfold countDisi
  split
  · exact h
  · split
    · exact { h with latchCounts := by simp }
    · exact { h with
        latchCounts := by
          intro _ hl
          simp only [Bool.and_eq_true, bne_iff_ne] at hl
          intro h0
          have hlt : s.disicnt.toNat - cycles < 2 ^ 14 := by have := s.disicnt.isLt; omega
          have := congrArg BitVec.toNat h0
          rw [BitVec.toNat_ofNat, Nat.mod_eq_of_lt hlt] at this
          exact hl.2 this }

theorem Skid.countdown_le (k : Skid) : k.countdown.left ≤ k.left := by
  unfold Skid.countdown
  split <;> simp

theorem skidLeft_countSkids_le (t : Trap) (s : State) : skidLeft t (countSkids s) ≤ skidLeft t s := by
  cases t <;> simp [skidLeft, countSkids, Skid.countdown_le]

theorem kept_countSkids {s : State} (h : Kept s) : Kept (countSkids s) :=
  { h with
    skidPending := fun t ht => Nat.le_zero.mp ((h.skidPending t ht) ▸ skidLeft_countSkids_le t s)
    skidBound := fun t => Nat.le_trans (skidLeft_countSkids_le t s) (h.skidBound t) }

theorem skidLeft_clearMarks (t : Trap) (s : State) : skidLeft t (clearMarks s) = skidLeft t s := by
  cases t <;> rfl

theorem kept_clearMarks {s : State} (h : Kept s) : Kept (clearMarks s) :=
  { h with
    skidPending := fun t ht => (skidLeft_clearMarks t s).trans (h.skidPending t ht)
    skidBound := fun t => (skidLeft_clearMarks t s).symm ▸ h.skidBound t }

end Sys2Proof.Machine
end

