-- ==== Sys2Proof/Laws/Arbitration.lean ====
section
/-! SUPPORT. What the arbitration over a list of sources finds, and which bits of a priority register are implemented
(60_exceptions.md R240, 11_interrupt_source_registers.md R70, R71). -/

namespace Sys2Proof.Machine

/-- The three bits of `IP(q)` are implemented exactly where the source is (11 R70, R71). -/
theorem getLsbD_priorityMask (p : Params) (q : Source) {i : Nat} (hi : i < 3) :
    (priorityMask p (q.val / 4)).getLsbD (4 * (q.val % 4) + i) = sourceImplemented p q := by
  have hq : 4 * (q.val / 4) + q.val % 4 = q.val := by omega
  have h4 : q.val % 4 < 4 := by omega
  have e : ∀ b : Bool, (if b then 7#4 else 0#4).getLsbD i = b := by
    intro b
    interval_cases i <;> cases b <;> rfl
  have hs : sourceImplemented p q = p.implemented.getLsbD (4 * (q.val / 4) + q.val % 4) := by
    rw [hq]
    rfl
  rw [hs]
  simp only [priorityMask, BitVec.getLsbD_append]
  generalize q.val % 4 = k at *
  interval_cases k
  · rw [if_pos (by omega), if_pos (by omega), if_pos (by omega), Nat.mul_zero, Nat.zero_add]
    exact e _
  · rw [if_pos (by omega), if_pos (by omega), if_neg (by omega), Nat.mul_one, Nat.add_sub_cancel_left]
    exact e _
  · rw [if_pos (by omega), if_neg (by omega), show 4 * 2 + i - (4 + 4) = i by omega]
    exact e _
  · rw [if_neg (by omega), show 4 * 3 + i - (4 + (4 + 4)) = i by omega]
    exact e _

/-- No source of the list is ready where the arbitration over it finds none. -/
theorem bestOf_none {s : State} : ∀ {l : List Source}, bestOf s l = none → ∀ q ∈ l, intReady s q = false
  | [], _ => by simp
  | q :: rest, h => by
    unfold bestOf at h
    cases hb : bestOf s rest with
    | none =>
      rw [hb] at h
      dsimp only at h
      split at h
      · cases h
      · rename_i hq
        intro y hy
        rcases List.mem_cons.mp hy with rfl | hy
        · exact Bool.eq_false_iff.mpr hq
        · exact bestOf_none hb y hy
    | some r =>
      rw [hb] at h
      dsimp only at h
      split at h <;> cases h

/-- What the arbitration over a rising list of sources finds is ready, and beats every other ready source. -/
theorem bestOf_some {s : State} : ∀ {l : List Source}, l.Pairwise (· < ·) → ∀ {q : Source}, bestOf s l = some q →
    q ∈ l ∧ intReady s q = true ∧ ∀ r ∈ l, intReady s r = true →
      priorityOf s r < priorityOf s q ∨ (priorityOf s r = priorityOf s q ∧ q ≤ r)
  | [], _, _, h => by cases h
  | x :: rest, hp, q, h => by
    obtain ⟨hlt, hr⟩ := List.pairwise_cons.mp hp
    unfold bestOf at h
    cases hb : bestOf s rest with
    | none =>
      rw [hb] at h
      dsimp only at h
      split at h
      · cases h
        refine ⟨List.mem_cons_self, by assumption, fun r hm hr' => ?_⟩
        rcases List.mem_cons.mp hm with rfl | hm
        · exact .inr ⟨rfl, le_refl _⟩
        · rw [bestOf_none hb r hm] at hr'
          cases hr'
      · cases h
    | some w =>
      obtain ⟨hw, hready, hbest⟩ := bestOf_some hr hb
      rw [hb] at h
      dsimp only at h
      split at h
      · rename_i hc
        cases h
        simp only [Bool.and_eq_true, decide_eq_true_eq, BitVec.le_def] at hc
        refine ⟨List.mem_cons_self, hc.1, fun r hm hr' => ?_⟩
        rcases List.mem_cons.mp hm with rfl | hm
        · exact .inr ⟨rfl, le_refl _⟩
        · have hlt' := hlt r hm
          have hb' := hbest r hm hr'
          simp only [BitVec.lt_def, ← BitVec.toNat_inj] at hb' ⊢
          rcases Nat.lt_or_eq_of_le hc.2 with hl | hl
          · left
            omega
          · rcases hb' with hb' | hb'
            · left
              omega
            · right
              exact ⟨by omega, le_of_lt hlt'⟩
      · rename_i hc
        cases h
        refine ⟨List.mem_cons_of_mem _ hw, hready, fun r hm hr' => ?_⟩
        rcases List.mem_cons.mp hm with rfl | hm
        · left
          simp only [hr', Bool.true_and, decide_eq_true_eq, BitVec.le_def] at hc
          rw [BitVec.lt_def]
          omega
        · exact hbest r hm hr'

end Sys2Proof.Machine
end

