-- ==== Sys2Proof/Laws/Environment.lean ====
section
/-! SUPPORT. A property of states that the primitive operations keep is kept by every ordinary instruction and by
every event (41_trap_raising_instructions.md, 60_exceptions.md R265); and two uses of it. -/

namespace Sys2Proof.Machine

/-- The primitive operations that ordinary instructions are made of keep `P`. -/
structure Closed (P : State → Prop) : Prop where
  write : ∀ r v s, P s → P (swWrite r v s)
  writeByte : ∀ r high b s, P s → P (swWriteByte r high b s)
  ram : ∀ a v s, P s → P (setRamByte a v s)
  soft : ∀ t s, P s → P (raiseSoft t s)
  hard : ∀ t s, P s → P (raiseHard t s).state
  detail : ∀ i s, i ≠ 0 → P s → P (setIntcon1Bit i s)
  stackPointer : ∀ v s, P s → P (setSp v s)
  counter : ∀ a s, P s → P (setPc a s)
  status : ∀ v s, P s → P (setSr v s)
  delivered : ∀ v s, P s → P (setBus v s)
  drawn : ∀ s, P s → P (countDraw s)
  accumulatorA : ∀ v s, P s → P { s with accA := v }
  accumulatorB : ∀ v s, P s → P { s with accB := v }

namespace Closed

variable {P : State → Prop} (c : Closed P)
include c

theorem ramWord (a : Nat) (v : Word) {s : State} (h : P s) : P (setRamWord a v s) :=
  c.ram _ _ _ (c.ram _ _ _ h)

theorem dataWord (a : Nat) (v : Word) {s : State} (h : P s) : P (writeDataWord a v s) := by
  unfold writeDataWord
  split
  · exact c.write _ _ _ h
  · exact c.ramWord _ _ h
  · exact h

theorem dataByte (a : Nat) (v : Byte) {s : State} (h : P s) : P (writeDataByte a v s) := by
  unfold writeDataByte
  split
  · exact c.writeByte _ _ _ _ h
  · exact c.ram _ _ _ h
  · exact h

theorem check (full : Int) (ea : Word) {s : State} (h : P s) : P (stackCheck full ea s) := by
  unfold stackCheck
  split
  · exact c.soft _ _ h
  · exact h

theorem eaCheck (ea : EA) (before : State) {s : State} (h : P s) : P (eaCheck ea before s) := by
  unfold Machine.eaCheck
  split
  · exact c.soft _ _ h
  · exact h

theorem push (check : Bool) (v : Word) {s : State} (h : P s) : P (pushWord check v s) := by
  unfold pushWord
  apply c.stackPointer
  split
  · exact c.soft _ _ (c.dataWord _ _ h)
  · exact c.dataWord _ _ h

theorem pop {s : State} (h : P s) : P (popWord s).flow.state := by
  have h1 : P (stackCheck (sp (setSp (sp s - 2#16) s)).toNat (sp (setSp (sp s - 2#16) s))
      (countDraw (setSp (sp s - 2#16) s))) :=
    c.check _ _ (c.drawn _ (c.stackPointer _ _ h))
  unfold popWord
  dsimp only
  split
  · exact c.hard _ _ h1
  · exact h1

theorem math {detail : Nat} (hd : detail ≠ 0) {s : State} (h : P s) : P (raiseMath detail s) :=
  c.soft _ _ (c.detail _ _ hd h)

theorem addressError {s : State} (h : P s) : P (Run.addressError s).state := c.hard _ _ h

theorem load (ea : EA) (width : Width) {s : State} (h : P s) : P (loadAction ea width s).state := by
  have h1 : P (Machine.eaCheck ea s s) := c.eaCheck _ _ h
  unfold loadAction
  dsimp only
  split
  · exact c.addressError (c.delivered _ _ h1)
  · cases width
    · exact c.delivered _ _ h1
    · exact c.delivered _ _ h1

theorem store (inhibit : Bool) (ea : EA) (width : Width) (v : Word) {s : State} (h : P s) :
    P (storeAction inhibit ea width v s).state := by
  unfold storeAction
  dsimp only
  split
  · exact c.addressError (c.eaCheck _ _ h)
  · split
    · exact c.eaCheck _ _ h
    · cases width
      · exact c.eaCheck _ _ (c.dataByte _ _ h)
      · exact c.eaCheck _ _ (c.dataWord _ _ h)

theorem modifyBit (inhibit : Bool) (ea : EA) (i : Fin 16) (b : Bool) {s : State} (h : P s) :
    P (modifyBitAction inhibit ea i b s).state := by
  unfold modifyBitAction
  dsimp only
  split
  · exact c.addressError (c.eaCheck _ _ h)
  · split
    · exact c.eaCheck _ _ h
    · exact c.eaCheck _ _ (c.dataWord _ _ h)

theorem fetch (implemented : State → Nat → Bool) (ea : EA) {s : State} (h : P s) :
    P (fetchAction implemented ea s).state := by
  have h1 : P (Machine.eaCheck ea s s) := c.eaCheck _ _ h
  unfold fetchAction
  dsimp only
  split
  · exact c.addressError (c.delivered _ _ h1)
  · exact c.delivered _ _ h1

omit c in
theorem inhibited (inhibit : Bool) (r : Reg) {w s : State} (hw : P w) (h : P s) :
    P (inhibited inhibit r w s) := by
  unfold Machine.inhibited
  split
  · exact h
  · exact hw

theorem pushReg (inhibit : Bool) (r : Reg) {s : State} (h : P s) : P (pushAction inhibit r s).state := by
  unfold pushAction
  split
  · exact c.stackPointer _ _ (c.check _ _ h)
  · exact c.push _ _ h

theorem popReg (inhibit : Bool) (r : Reg) {s : State} (h : P s) : P (popAction inhibit r s).state := by
  unfold popAction
  dsimp only
  split
  · exact c.pop h
  · exact Closed.inhibited _ _ (c.write _ _ _ (c.pop h)) (c.pop h)

theorem acc (x : AccName) (v : Acc) {s : State} (h : P s) : P (setAcc x v s) := by
  cases x
  · exact c.accumulatorA _ _ h
  · exact c.accumulatorB _ _ h

theorem overflow (x : AccName) (b : Bool) {s : State} (h : P s) : P (setOverflow x b s) := by
  cases x <;> exact c.status _ _ h

theorem overflow31 (x : AccName) {s : State} (h : P s) : P (accOverflow31 x s) := by
  cases x <;> simp only [accOverflow31] <;> split <;> first | exact c.math (by decide) h | exact h

theorem overflow39 (x : AccName) {s : State} (h : P s) : P (accOverflow39 x s) := by
  unfold accOverflow39
  split
  · cases x <;> exact c.math (by decide) h
  · exact h

theorem accOp (x : AccName) (carry31 carry39 : Bool) (v : Acc) {s : State} (h : P s) :
    P (accAction x carry31 carry39 v s) := by
  have h1 := c.overflow x carry31 (c.acc x v h)
  cases carry31 <;> cases carry39 <;> simp only [accAction, if_true, if_false, Bool.false_eq_true]
  · exact h1
  · exact c.overflow39 _ h1
  · exact c.overflow31 _ h1
  · exact c.overflow39 _ (c.overflow31 _ h1)

theorem sftac (x : AccName) (n : Int) (v : Acc) {s : State} (h : P s) : P (sftacAction x n v s) := by
  unfold sftacAction
  split
  · exact c.math (by decide) h
  · exact c.acc _ _ h

/-- One action. -/
theorem act (inhibit : Bool) (action : Action) {s : State} (h : P s) : P (act inhibit action s).state := by
  have h0 : P (countDraw s) := c.drawn _ h
  cases action with
  | write r v => exact Closed.inhibited _ _ (c.write _ _ _ h0) h0
  | writeByte r high v => exact Closed.inhibited _ _ (c.writeByte _ _ _ _ h0) h0
  | writeBit r i v => exact Closed.inhibited _ _ (c.write _ _ _ h0) h0
  | load ea width => exact c.load _ _ h0
  | store ea width v => exact c.store _ _ _ _ h0
  | modifyBit ea i v => exact c.modifyBit _ _ _ _ h0
  | fetchX a => exact c.fetch _ _ h0
  | fetchY a => exact c.fetch _ _ h0
  | push r => exact c.pushReg _ _ h0
  | pop r => exact c.popReg _ _ h0
  | accOp x carry31 carry39 v => exact c.accOp _ _ _ _ h0
  | sftac x n v => exact c.sftac _ _ _ h0
  | divideByZero => exact c.math (by decide) h0
  | aluStatus v => exact c.status _ _ h0
  | dspStatus v => exact c.status _ _ h0

/-- The actions of an instruction. -/
theorem actAll (inhibit : Bool) : ∀ (acts : List Action) {s : State}, P s → P (actAll inhibit acts s).state
  | [], _, h => h
  | action :: rest, s, h => by
    unfold Machine.actAll
    dsimp only
    split
    · exact c.act _ _ h
    · exact actAll inhibit rest (c.act _ _ h)

theorem heldEffects (acts : List Action) {s : State} (h : P s) : P (heldEffects acts s).state := by
  unfold Machine.heldEffects
  dsimp only
  split
  · exact c.actAll _ _ h
  · exact c.addressError (c.actAll _ _ h)

theorem effects (branchError : Bool) (acts : List Action) {s : State} (h : P s) :
    P (effects branchError acts s).state := by
  unfold Machine.effects
  dsimp only
  split
  · exact c.heldEffects _ h
  · exact c.actAll _ _ h

theorem branchLiteral (a : PAddr) {s : State} (h : P s) : P (branchLiteral a s).state := by
  unfold Machine.branchLiteral Flow.andThen
  split
  · exact c.counter _ _ h
  · dsimp only
    split
    · exact c.hard _ _ h
    · exact c.counter _ _ (c.hard _ _ h)

theorem succeed (succ : Successor) {s : State} (h : P s) : P (succeed succ s) := by
  cases succ with
  | sequential twoWords => exact c.counter _ _ h
  | computed a => exact c.counter _ _ h
  | literal a => exact c.branchLiteral _ h

/-- An ordinary instruction. -/
theorem runOrdinary (o : OrdInstr) {s : State} (h : P s) : P (runOrdinary o s) := by
  unfold Machine.runOrdinary
  dsimp only
  split
  · exact c.effects _ _ h
  · exact c.succeed _ (c.effects _ _ h)

end Closed

/-! ### The effects of an instruction, case by case (20_memory.md R136) -/

/-- Without an address error the actions act as they are. -/
theorem effects_of_quiet {acts : List Action} {s : State} (h : (actAll false acts s).addrErr = false) :
    effects false acts s = actAll false acts s := by simp [effects, h]

/-- An access that raises an address error holds back the data writes. -/
theorem effects_of_access {acts : List Action} {s : State} (h : (actAll false acts s).addrErr = true) :
    effects false acts s = heldEffects acts s := by simp [effects, h]

/-- A literal target that raises an address error holds back the data writes. -/
theorem effects_of_branch (acts : List Action) (s : State) : effects true acts s = actAll true acts s := rfl

/-- Held effects that are not cut off have raised the address error. -/
theorem heldEffects_addrErr {acts : List Action} {s : State} (h : (heldEffects acts s).reset = false) :
    (heldEffects acts s).addrErr = true := by
  revert h
  unfold heldEffects
  dsimp only
  split
  · rename_i hc
    intro h
    simpa [h] using hc
  · intro _
    rfl

/-- The primitive operations keep the invariant. -/
theorem kept_closed : Closed Kept where
  write r v _ h := kept_swWrite r v h
  writeByte r high b _ h := kept_swWriteByte r high b h
  ram a v _ h := kept_setRamByte a v h
  soft t _ h := kept_raiseSoft t h
  hard t _ h := kept_raiseHard t h
  detail i _ hi h := kept_setIntcon1Bit i hi h
  stackPointer v _ h := kept_setSp v h
  counter a _ h := kept_setPc a h
  status _ _ h := { h with }
  delivered _ _ h := { h with }
  drawn _ h := kept_countDraw h
  accumulatorA _ _ h := { h with }
  accumulatorB _ _ h := { h with }

theorem kept_pinEvent (n : Fin 5) (level : Bool) {s : State} (h : Kept s) : Kept (pinEvent n level s) := by
  unfold pinEvent
  dsimp only
  split
  · exact kept_setFlag _ { h with }
  · exact { h with }

theorem kept_deliver (e : EnvEvent) {s : State} (h : Kept s) : Kept (deliver e s) := by
  cases e with
  | setFlag q => exact kept_setFlag q h
  | pin n level => exact kept_pinEvent n level h
  | oscillatorFailure => exact kept_raiseHard _ { h with }
  | clockFail value => exact { h with }
  | dmaCollision => exact kept_raiseSoft _ h
  | dmaWrite a v =>
    simp only [deliver, dmaWrite]
    split
    · exact kept_setRamByte _ _ h
    · exact h
    · exact h
  | reset cause => exact kept_deviceReset _ h

theorem kept_deliverAll : ∀ (es : List EnvEvent) {s : State}, Kept s → Kept (deliverAll es s)
  | [], _, h => h
  | e :: rest, _, h => kept_deliverAll rest (kept_deliver e h)

/-- The events before a boundary keep the invariant. -/
theorem kept_takeEvents {s : State} (h : Kept s) : Kept (takeEvents s) := by
  unfold takeEvents
  split
  · exact h
  · exact kept_deliverAll _ { h with }

end Sys2Proof.Machine
end

