-- ==== Sys2Proof/Laws/Ops.lean ====
section
/-! SUPPORT. What each shared operation does, said once: what the reads depend on, and the results of raising traps,
of pushes and pops and of exception entry (60_exceptions.md, 41_trap_raising_instructions.md). -/

namespace Sys2Proof.Machine

/-! ### What a read depends on -/

theorem placeOf_congr {s t : State} (h : t.params = s.params) (a : Nat) : placeOf t a = placeOf s a := by
  unfold placeOf dataImplemented
  rw [h]

theorem ramByte_congr {s t : State} (hm : t.mem = s.mem) (he : t.ramEpoch = s.ramEpoch) (a : Nat) :
    ramByte t a = ramByte s a := by
  simp [ramByte, hm, he]

theorem ramWord_congr {s t : State} (hm : t.mem = s.mem) (he : t.ramEpoch = s.ramEpoch)
    (hp : t.params = s.params) (a : Nat) : ramWord t a = ramWord s a := by
  rw [ramWord, ramWord, ramByte_congr hm he, ramByte_congr hm he, hp]

theorem cpuIpl_congr {s t : State} (hs : t.sr = s.sr) (hc : t.corcon = s.corcon) : cpuIpl t = cpuIpl s := by
  simp [cpuIpl, ipl3, ipl, hs, hc]

theorem stackViolation_congr {s t : State} (hl : t.splim = s.splim) (ha : t.splimArmed = s.splimArmed) (full : Int)
    (ea : Word) : stackViolation t full ea = stackViolation s full ea := by
  simp [stackViolation, hl, ha]

theorem ramAt_congr {s t : State} (h : t.params = s.params) (a : Word) : ramAt t a ↔ ramAt s a := by
  simp [ramAt, placeOf_congr h]

/-- An address of W15 wraps over the end of data space only with an offset (41 R191). -/
theorem stackViolation_word (s : State) (a : Word) :
    stackViolation s a.toNat a = ((s.splimArmed && decide (s.splim < a)) || decide (a < 0x0800#16)) := by
  have h : ¬ (0xFFFF : Int) < (a.toNat : Int) := by have := a.isLt; omega
  simp [stackViolation, h]

/-! ### Bits -/

theorem putBit_of_set {v : Word} {i : Nat} (h : v.getLsbD i = true) : putBit v i true = v := by
  apply BitVec.eq_of_getLsbD_eq
  intro j hj
  rw [getLsbD_putBit]
  split
  · rename_i hc
    rw [← hc.1, h]
  · rfl

/-! ### Raising traps -/

/-- The status bit of a soft trap after a raise, pending before or not (60 R225). -/
theorem raiseSoft_intcon1 (t : Trap) (s : State) :
    (raiseSoft t s).intcon1 = putBit s.intcon1 t.statusBit true := by
  unfold raiseSoft
  split
  · exact (putBit_of_set ‹_›).symm
  · simp

theorem raiseSoft_of_pending {t : Trap} {s : State} (h : trapPending t s = true) : raiseSoft t s = s := by
  simp [raiseSoft, h]

theorem trapPending_raiseSoft_self (t : Trap) (s : State) : trapPending t (raiseSoft t s) = true := by
  have h := trapPending_setIntcon1Bit_self t s
  unfold trapPending at h ⊢
  rw [raiseSoft_intcon1]
  exact h

/-- A soft trap raised leaves every field but INTCON1, the skids and the counter of free values (60 R225). -/
theorem raiseSoft_frame (t : Trap) (s : State) :
    { raiseSoft t s with
      intcon1 := s.intcon1, skidStk := s.skidStk, skidMath := s.skidMath, skidDmac := s.skidDmac,
      draws := s.draws } = s := by
  unfold raiseSoft
  split
  · rfl
  · cases t <;> rfl

/-- A raise of the stack error touches no skid but its own. -/
theorem raiseSoft_stk_frame (s : State) :
    { raiseSoft .stkErr s with intcon1 := s.intcon1, skidStk := s.skidStk, draws := s.draws } = s := by
  unfold raiseSoft
  split <;> rfl

/-- A property of the fields that a raise of the stack error does not touch. -/
theorem raiseSoft_stk_keeps {α : Type} (f : State → α)
    (hf : ∀ (t : State) i k d, f { t with intcon1 := i, skidStk := k, draws := d } = f t) (s : State) :
    f (raiseSoft .stkErr s) = f s := by
  rw [← hf (raiseSoft .stkErr s) s.intcon1 s.skidStk s.draws, raiseSoft_stk_frame]

/-- INTCON1 after a math error: its detail bit and MATHERR (41 R201). -/
theorem raiseMath_intcon1 (detail : Nat) (s : State) :
    (raiseMath detail s).intcon1 = putBit (putBit s.intcon1 detail true) 4 true :=
  raiseSoft_intcon1 .mathErr _

/-- A raise of the math error touches no skid but its own. -/
theorem raiseSoft_math_frame (s : State) :
    { raiseSoft .mathErr s with intcon1 := s.intcon1, skidMath := s.skidMath, draws := s.draws } = s := by
  unfold raiseSoft
  split <;> rfl

/-- A math error touches INTCON1, its skid and the counter of free values only. -/
theorem raiseMath_frame (detail : Nat) (s : State) :
    { raiseMath detail s with intcon1 := s.intcon1, skidMath := s.skidMath, draws := s.draws } = s :=
  congrArg (fun t : State => { t with intcon1 := s.intcon1 }) (raiseSoft_math_frame (setIntcon1Bit detail s))

/-- A property of the fields that a math error does not touch. -/
theorem raiseMath_keeps {α : Type} (f : State → α)
    (hf : ∀ (t : State) i k d, f { t with intcon1 := i, skidMath := k, draws := d } = f t) (detail : Nat)
    (s : State) : f (raiseMath detail s) = f s := by
  rw [← hf (raiseMath detail s) s.intcon1 s.skidMath s.draws, raiseMath_frame]

/-- Raising the address error where it meets no conflict and no equal level (60 R257, R258). -/
theorem raiseHard_addrErr {s : State} (ho : trapPending .oscFail s = false) (hc : cpuIpl s < 13#4) :
    raiseHard .addrErr s = ⟨setIntcon1Bit 3 s, false⟩ := by
  have h1 : hardTrapConflict .addrErr s = false := by
    have : ¬ (13#4 < cpuIpl s) := by
      rw [BitVec.lt_def] at hc ⊢
      omega
    simp [hardTrapConflict, Trap.level, this, allTraps, ho]
  have h2 : ¬ (13#4 = cpuIpl s) := by
    rintro h
    rw [← h] at hc
    exact absurd hc (by decide)
  simp [raiseHard, h1, Trap.level, h2, Trap.statusBit]

/-- Raising the address error under a hard-trap conflict (60 R257). -/
theorem raiseHard_addrErr_conflict {s : State} (h : trapPending .oscFail s = true ∨ 13#4 < cpuIpl s) :
    raiseHard .addrErr s = ⟨deviceReset .trapConflict s, true⟩ := by
  have h1 : hardTrapConflict .addrErr s = true := by
    rcases h with h | h
    · simp [hardTrapConflict, Trap.level, allTraps, h]
    · simp [hardTrapConflict, Trap.level, h]
  simp [raiseHard, h1]

/-- Where a raise of the address error does not reset the device, it touches only INTCON1 and `stalled`. -/
theorem raiseHard_frame {t : Trap} {s : State} (h : (raiseHard t s).reset = false) :
    { (raiseHard t s).state with intcon1 := s.intcon1, stalled := s.stalled } = s := by
  revert h
  unfold raiseHard
  split
  · simp
  · split
    · split
      · simp
      · exact fun _ => rfl
    · exact fun _ => rfl

/-- A property of the fields that a raise of a hard trap without a device reset does not touch. -/
theorem raiseHard_keeps {α : Type} (f : State → α)
    (hf : ∀ (t : State) i b, f { t with intcon1 := i, stalled := b } = f t) {t : Trap} {s : State}
    (h : (raiseHard t s).reset = false) : f (raiseHard t s).state = f s := by
  rw [← hf (raiseHard t s).state s.intcon1 s.stalled, raiseHard_frame h]

/-! ### Stack -/

theorem writeDataWord_ram {s : State} {a : Nat} (h : placeOf s a = .ram) (v : Word) :
    writeDataWord a v s = setRamWord a v s := by
  simp [writeDataWord, h]

theorem sp_setSp (v : Word) (s : State) : sp (setSp v s) = v &&& 0xFFFE#16 := by
  simp only [sp, setSp_w15]
  exact and_and_self _ _

/-- An even word is its own even part. -/
theorem even_word {v : Word} (h : v.getLsbD 0 = false) : v &&& 0xFFFE#16 = v := by
  apply BitVec.eq_of_getLsbD_eq
  intro i hi
  rw [BitVec.getLsbD_and]
  by_cases h0 : i = 0
  · subst h0
    rw [h]
    rfl
  · have : (0xFFFE#16).getLsbD i = true := by interval_cases i <;> simp_all
    simp [this]

theorem sp_even (s : State) : (sp s).getLsbD 0 = false := evenSp_bit0 _

theorem even_iff_mod (v : Word) : v.getLsbD 0 = false ↔ v.toNat % 2 = 0 := by
  rw [BitVec.getLsbD, Nat.testBit_zero]
  have := Nat.mod_two_eq_zero_or_one v.toNat
  simp

theorem even_add {v w : Word} (hv : v.getLsbD 0 = false) (hw : w.getLsbD 0 = false) :
    (v + w).getLsbD 0 = false := by
  rw [even_iff_mod] at hv hw ⊢
  rw [BitVec.toNat_add]
  omega

theorem even_sub {v w : Word} (hv : v.getLsbD 0 = false) (hw : w.getLsbD 0 = false) :
    (v - w).getLsbD 0 = false := by
  rw [even_iff_mod] at hv hw ⊢
  rw [BitVec.toNat_sub]
  omega

theorem sp_setSp_add (n : Word) (hn : n.getLsbD 0 = false) (s t : State) :
    sp (setSp (sp s + n) t) = sp s + n := by
  rw [sp_setSp, even_word (even_add (sp_even s) hn)]

theorem sp_setSp_sub (n : Word) (hn : n.getLsbD 0 = false) (s t : State) :
    sp (setSp (sp s - n) t) = sp s - n := by
  rw [sp_setSp, even_word (even_sub (sp_even s) hn)]

theorem sp_raiseSoft (t : Trap) (s : State) : sp (raiseSoft t s) = sp s := by simp [sp]

theorem sp_setRamWord (a : Nat) (v : Word) (s : State) : sp (setRamWord a v s) = sp s := rfl

/-- A push at W15 into data RAM (41 R191, R213; log 16). -/
theorem pushWord_ram (check : Bool) (v : Word) {s : State} (h : placeOf s (sp s).toNat = .ram) :
    pushWord check v s
      = setSp (sp s + 2#16)
          (if check && stackViolation s (sp s).toNat (sp s)
            then raiseSoft .stkErr (setRamWord (sp s).toNat v s) else setRamWord (sp s).toNat v s) := by
  unfold pushWord
  rw [writeDataWord_ram h]
  dsimp only
  split
  · rw [sp_raiseSoft, sp_setRamWord]
  · rw [sp_setRamWord]

/-- The state a pop leaves where it reads something (41 R191, R213). -/
theorem popWord_present {s : State} (h : placeOf s (sp s - 2#16).toNat ≠ .absent) :
    popWord s
      = ⟨readDataWord (setSp (sp s - 2#16) s) (sp s - 2#16).toNat,
          ⟨stackCheck (sp s - 2#16).toNat (sp s - 2#16) (countDraw (setSp (sp s - 2#16) s)), false⟩, false⟩ := by
  have hp : placeOf (setSp (sp s - 2#16) s) (sp s - 2#16).toNat = placeOf s (sp s - 2#16).toNat :=
    placeOf_congr rfl _
  have hb : (placeOf s (sp s - 2#16).toNat == Place.absent) = false := by simpa using h
  unfold popWord
  dsimp only
  rw [sp_setSp_sub _ (by decide), hp, hb]
  rfl

/-- A pop from data RAM (41 R191, R213). -/
theorem popWord_ram {s : State} (h : placeOf s (sp s - 2#16).toNat = .ram) :
    popWord s
      = ⟨ramWord s (sp s - 2#16).toNat,
          ⟨stackCheck (sp s - 2#16).toNat (sp s - 2#16) (countDraw (setSp (sp s - 2#16) s)), false⟩, false⟩ := by
  have hp : placeOf (setSp (sp s - 2#16) s) (sp s - 2#16).toNat = .ram := (placeOf_congr rfl _).trans h
  rw [popWord_present (by rw [h]; decide), readDataWord, hp]
  rfl

/-- A pop from unimplemented data memory: any value, and the address error (41 R197; log 17). -/
theorem popWord_absent {s : State} (h : placeOf s (sp s - 2#16).toNat = .absent) :
    popWord s
      = ⟨Config.openWord s.draws,
          raiseHard .addrErr
            (stackCheck (sp s - 2#16).toNat (sp s - 2#16) (countDraw (setSp (sp s - 2#16) s))), true⟩ := by
  have hp : placeOf (setSp (sp s - 2#16) s) (sp s - 2#16).toNat = .absent := (placeOf_congr rfl _).trans h
  unfold popWord
  dsimp only
  rw [sp_setSp_sub _ (by decide), hp, readDataWord, hp]
  rfl

/-- A stack check leaves every field but INTCON1, the skid of the stack error and the counter of free values. -/
theorem stackCheck_frame (full : Int) (ea : Word) (s : State) :
    { stackCheck full ea s with intcon1 := s.intcon1, skidStk := s.skidStk, draws := s.draws } = s := by
  unfold stackCheck
  split
  · exact raiseSoft_stk_frame s
  · rfl

/-- The status bit of the stack error after a stack check (41 R191). -/
theorem stackCheck_intcon1 (full : Int) (ea : Word) (s : State) :
    (stackCheck full ea s).intcon1 = if stackViolation s full ea then putBit s.intcon1 2 true else s.intcon1 := by
  unfold stackCheck
  split
  · exact raiseSoft_intcon1 _ _
  · rfl

/-- A property of the fields that a stack check does not touch. -/
theorem stackCheck_keeps {α : Type} (f : State → α)
    (hf : ∀ (t : State) i k d, f { t with intcon1 := i, skidStk := k, draws := d } = f t)
    (full : Int) (ea : Word) (s : State) : f (stackCheck full ea s) = f s := by
  rw [← hf (stackCheck full ea s) s.intcon1 s.skidStk s.draws, stackCheck_frame]

/-- A property of the fields that a pop without a device reset does not touch (41 R191, R197, R213). -/
theorem popWord_keeps {α : Type} (f : State → α)
    (hf : ∀ (t : State) p i k d b,
      f { t with w15 := p, intcon1 := i, skidStk := k, draws := d, stalled := b } = f t)
    {s : State} (h : (popWord s).flow.reset = false) : f (popWord s).flow.state = f s := by
  have e : f (stackCheck (sp s - 2#16).toNat (sp s - 2#16) (countDraw (setSp (sp s - 2#16) s))) = f s :=
    (stackCheck_keeps f (fun t i k d => hf t t.w15 i k d t.stalled) _ _ _).trans
      (hf s ((sp s - 2#16) &&& 0xFFFE#16) s.intcon1 s.skidStk (s.draws + 1) s.stalled)
  by_cases ha : placeOf s (sp s - 2#16).toNat = .absent
  · rw [popWord_absent ha] at h ⊢
    exact (raiseHard_keeps f (fun t i b => hf t t.w15 i t.skidStk t.draws b) h).trans e
  · rw [popWord_present ha]
    exact e

/-- A property of the fields that a push into data RAM does not touch. -/
theorem pushWord_keeps {α : Type} (f : State → α)
    (hf : ∀ (t : State) m p i k d, f { t with mem := m, w15 := p, intcon1 := i, skidStk := k, draws := d } = f t)
    (check : Bool) (v : Word) {s : State} (h : placeOf s (sp s).toNat = .ram) : f (pushWord check v s) = f s := by
  rw [pushWord_ram check v h]
  have e : ∀ u : State, f (setSp (sp s + 2#16) u) = f u := fun u => by
    rw [← hf (setSp (sp s + 2#16) u) u.mem u.w15 u.intcon1 u.skidStk u.draws]
    rfl
  have e' : f (setRamWord (sp s).toNat v s) = f s := by
    rw [← hf (setRamWord (sp s).toNat v s) s.mem s.w15 s.intcon1 s.skidStk s.draws]
    rfl
  rw [e]
  split
  · exact (raiseSoft_stk_keeps f (fun t i k d => hf t t.mem t.w15 i k d) _).trans e'
  · exact e'

/-- W15 after a push (41 R213). -/
theorem sp_pushWord (check : Bool) (v : Word) {s : State} (h : placeOf s (sp s).toNat = .ram) :
    sp (pushWord check v s) = sp s + 2#16 := by
  rw [pushWord_ram check v h, sp_setSp_add _ (by decide)]

/-- Data memory after a push into data RAM, checked or not. -/
theorem mem_pushWord (check : Bool) (v : Word) {s : State} (h : placeOf s (sp s).toNat = .ram) :
    (pushWord check v s).mem = (setRamWord (sp s).toNat v s).mem := by
  rw [pushWord_ram check v h, setSp_mem]
  split <;> simp

/-- The status bit of the stack error after a push into data RAM. -/
theorem intcon1_pushWord (check : Bool) (v : Word) {s : State} (h : placeOf s (sp s).toNat = .ram) :
    (pushWord check v s).intcon1
      = if check && stackViolation s (sp s).toNat (sp s) then putBit s.intcon1 2 true else s.intcon1 := by
  rw [pushWord_ram check v h, setSp_intcon1]
  split
  · exact raiseSoft_intcon1 _ _
  · rfl

/-! ### Exception entry -/

/-- The two words of the frame do not overlap, also where W15 wraps. -/
theorem frame_apart (s : State) :
    (sp s).toNat + 1 < (sp s + 2#16).toNat ∨ (sp s + 2#16).toNat + 1 < (sp s).toNat := by
  have h := (even_iff_mod _).mp (sp_even s)
  have h' := (sp s).isLt
  rw [BitVec.toNat_add]
  simp only [BitVec.toNat_ofNat]
  omega

/-- The first word of the frame (60 R246). -/
theorem frameLow_capture (s : State) : frameLow (captureReturn s) = (curPc s).extractLsb' 0 16 := by
  simp only [frameLow, captureReturn]
  apply BitVec.eq_of_getLsbD_eq
  intro i hi
  simp only [BitVec.getLsbD_extractLsb', BitVec.getLsbD_append]
  interval_cases i <;> simp

/-- The second word of the frame (60 R246). -/
theorem frameHigh_capture (s : State) :
    frameHigh (captureReturn s) = srl s ++ (BitVec.ofBool (ipl3 s) ++ (curPc s).extractLsb' 16 7) := by
  simp only [frameHigh, captureReturn]
  congr 1
  apply BitVec.eq_of_getLsbD_eq
  intro i hi
  simp only [BitVec.getLsbD_extractLsb', BitVec.getLsbD_append]
  interval_cases i <;> simp

/-- Both pushes of entry, the frame in data RAM: where they go, and what they leave (60 R245, R246, R249). -/
theorem pushFrame_ram {s : State} (h : placeOf s (sp s).toNat = .ram)
    (h' : placeOf s (sp s + 2#16).toNat = .ram) :
    sp (pushFrame s) = sp s + 4#16 ∧
    (pushFrame s).mem
      = (setRamWord (sp s + 2#16).toNat (frameHigh s) (setRamWord (sp s).toNat (frameLow s) s)).mem ∧
    (pushFrame s).intcon1
      = (if s.params.excPushStackCheck == .checked &&
            (stackViolation s (sp s).toNat (sp s) || stackViolation s (sp s + 2#16).toNat (sp s + 2#16))
          then putBit s.intcon1 2 true else s.intcon1) ∧
    (∀ {α : Type} (f : State → α),
      (∀ (t : State) m p i k d, f { t with mem := m, w15 := p, intcon1 := i, skidStk := k, draws := d } = f t) →
      f (pushFrame s) = f s) := by
  unfold pushFrame
  dsimp only
  generalize (s.params.excPushStackCheck == PushCheck.checked) = check
  have e1 := sp_pushWord check (frameLow s) h
  have r2 : placeOf (pushWord check (frameLow s) s) (sp (pushWord check (frameLow s) s)).toNat = .ram := by
    rw [e1, pushWord_keeps (placeOf · _) (fun _ _ _ _ _ _ => rfl) _ _ h]
    exact h'
  refine ⟨?_, ?_, ?_, ?_⟩
  · rw [sp_pushWord _ _ r2, e1, BitVec.add_assoc]
    rfl
  · have hm := mem_pushWord check (frameLow s) h
    have hp : (pushWord check (frameLow s) s).params = s.params :=
      pushWord_keeps (·.params) (fun _ _ _ _ _ _ => rfl) _ _ h
    rw [mem_pushWord _ _ r2, e1]
    simp only [setRamWord, setRamByte_mem, setRamByte_params, hm, hp]
  · rw [intcon1_pushWord _ _ r2, e1, intcon1_pushWord _ _ h,
      pushWord_keeps (stackViolation · _ _) (fun _ _ _ _ _ _ => rfl) _ _ h]
    cases check <;> cases stackViolation s (sp s).toNat (sp s) <;>
      cases stackViolation s (sp s + 2#16).toNat (sp s + 2#16) <;> simp only [Bool.and_true, Bool.and_false,
        Bool.or_true, Bool.or_false, if_true, if_false, Bool.false_eq_true]
    exact putBit_of_set (by rw [getLsbD_putBit]; simp)
  · intro α f hf
    rw [pushWord_keeps f hf _ _ r2, pushWord_keeps f hf _ _ h]

/-- Both pushes of entry, the frame in data RAM and no stack error raised (60 R246, R249). -/
theorem pushFrame_fits {s : State} (h : placeOf s (sp s).toNat = .ram) (h' : placeOf s (sp s + 2#16).toNat = .ram)
    (hc : s.params.excPushStackCheck = .unchecked ∨
      (stackViolation s (sp s).toNat (sp s) = false ∧
        stackViolation s (sp s + 2#16).toNat (sp s + 2#16) = false)) :
    pushFrame s
      = setSp (sp s + 4#16)
          (setRamWord (sp s + 2#16).toNat (frameHigh s) (setRamWord (sp s).toNat (frameLow s) s)) := by
  unfold pushFrame
  dsimp only
  generalize hk : (s.params.excPushStackCheck == PushCheck.checked) = check
  have hc' : check = false ∨ (stackViolation s (sp s).toNat (sp s) = false ∧
      stackViolation s (sp s + 2#16).toNat (sp s + 2#16) = false) := by
    rcases hc with hc | hc
    · left
      rw [← hk, hc]
      rfl
    · exact .inr hc
  have e1 : pushWord check (frameLow s) s = setSp (sp s + 2#16) (setRamWord (sp s).toNat (frameLow s) s) := by
    rw [pushWord_ram _ _ h, if_neg]
    rcases hc' with hc' | hc'
    · simp [hc']
    · simp only [hc'.1, Bool.and_false]
      decide
  have e2 : sp (setSp (sp s + 2#16) (setRamWord (sp s).toNat (frameLow s) s)) = sp s + 2#16 :=
    sp_setSp_add _ (by decide) _ _
  have r2 : placeOf (setSp (sp s + 2#16) (setRamWord (sp s).toNat (frameLow s) s)) (sp s + 2#16).toNat = .ram :=
    (placeOf_congr (by simp) _).trans h'
  rw [e1, pushWord_ram _ _ (by rw [e2]; exact r2), e2, if_neg, BitVec.add_assoc]
  · rfl
  · rw [stackViolation_congr (s := s) (by simp) (by simp)]
    rcases hc' with hc' | hc'
    · simp [hc']
    · simp only [hc'.2, Bool.and_false]
      decide

/-- A property of the fields that entry does not touch, the frame in data RAM (60 R245). -/
theorem takeException_keeps {α : Type} (f : State → α)
    (hf : ∀ (t : State) m p i k d c r tp ts a,
      f { t with mem := m, w15 := p, intcon1 := i, skidStk := k, draws := d, corcon := c, sr := r, tempPc := tp,
                 tempSrl := ts, pc := a } = f t)
    (v : Nat) (level : BitVec 4) (kind : Kind) {s : State} (h : placeOf s (sp s).toNat = .ram)
    (h' : placeOf s (sp s + 2#16).toNat = .ram) : f (takeException v level kind s) = f s := by
  have h1 : placeOf (captureReturn s) (sp (captureReturn s)).toNat = .ram := h
  have h2 : placeOf (captureReturn s) (sp (captureReturn s) + 2#16).toNat = .ram := h'
  have a : f (pushFrame (captureReturn s)) = f (captureReturn s) :=
    (pushFrame_ram h1 h2).2.2.2 f fun t m p i k d => hf t m p i k d t.corcon t.sr t.tempPc t.tempSrl t.pc
  have b : f (captureReturn s) = f s := hf s s.mem s.w15 s.intcon1 s.skidStk s.draws s.corcon s.sr _ _ s.pc
  have c : ∀ u, f (fetchVector v (enterPriority kind level u)) = f u := by
    intro u
    cases kind with
    | trap => exact hf u u.mem u.w15 u.intcon1 u.skidStk u.draws _ _ u.tempPc u.tempSrl _
    | interrupt => exact hf u u.mem u.w15 u.intcon1 u.skidStk u.draws u.corcon _ u.tempPc u.tempSrl _
  exact (c _).trans (a.trans b)

end Sys2Proof.Machine
end

