-- ==== Sys2Proof/Laws/Boundary.lean ====
section
/-! SUPPORT. The parts of a boundary keep the invariant, and what a boundary comes to in Run
(60_exceptions.md R265). -/

namespace Sys2Proof.Machine

/-- Every meaning keeps what `Kept` says. -/
theorem kept_exec {i : Instr} {s t : State} (h : Kept s) (he : exec i s = .next t) : Kept t := by
  cases i with
  | disi lit14 =>
    cases he
    refine kept_setPc _ { h with latchCounts := ?_ }
    intro hz hl h0
    dsimp only at hz hl h0
    simp [disiLatchAfter, hz, h0] at hl
  | retfie =>
    cases he
    exact kept_returnFromException h
  | pwrsav lit1 =>
    cases he
    exact kept_setPc _ { h with }
  | reset =>
    cases he
    exact kept_deviceReset _ h
  | goto target =>
    cases he
    exact kept_closed.branchLiteral _ h

/-- The state a boundary begins with has no mark of an earlier step. -/
theorem unmarked_beginStep (s : State) : Unmarked (beginStep s) := ⟨rfl, rfl, rfl, rfl⟩

theorem kept_beginStep {s : State} (h : Kept s) : Kept (beginStep s) := kept_clearMarks (kept_takeEvents h)

/-- The end of an instruction leaves the invariant of every boundary. -/
theorem inv_endInstruction (cycles : Nat) {s : State} (h : Kept s) : Inv (endInstruction cycles s) :=
  { kept_clearMarks (kept_countDisi cycles (kept_countSkids (kept_countDraw h))) with
    unmarked := ⟨rfl, rfl, rfl, rfl⟩ }

/-- A word that executes as a `NOP` leaves the invariant of every boundary. -/
theorem inv_runNop {s : State} (h : Kept s) : Inv (runNop s) := inv_endInstruction _ (kept_setPc _ h)

/-- A step that takes an exception leaves the invariant of every boundary. -/
theorem inv_takeStep (e : Selected) {s : State} (h : Kept s) : Inv (takeStep e s) :=
  { kept_clearMarks (kept_countDisi 4 (kept_takeException _ _ _ h)) with unmarked := ⟨rfl, rfl, rfl, rfl⟩ }

/-- The check of the PC touches no mark. -/
theorem unmarked_checkFetch {s : State} (h : Unmarked s) : Unmarked (checkFetch s).state := by
  unfold checkFetch
  split
  · exact h
  · unfold raiseHard
    split
    · exact ⟨rfl, rfl, rfl, rfl⟩
    · split
      · split
        · exact ⟨rfl, rfl, rfl, rfl⟩
        · exact h
      · exact h

theorem kept_checkFetch {s : State} (h : Kept s) : Kept (checkFetch s).state := by
  unfold checkFetch
  split
  · exact h
  · exact kept_raiseHard _ h

/-- A boundary in Run that is not blocked. -/
theorem step_of_run {s : State} (hs : (beginStep s).stalled = false) (hp : (beginStep s).power = .run) :
    step s = runBoundary (beginStep s) := by
  simp [step, atBoundary, hs, wakeUp, hp]

/-- A boundary with the PC in implemented memory and nothing to take. -/
theorem runBoundary_of_none {s : State} (hs : s.stalled = false) (hp : progImplemented s (curPc s).toNat = true)
    (hn : select s = none) : runBoundary s = runInstruction s := by
  simp [runBoundary, checkFetch, hp, hs, hn]

/-- With the PC in unimplemented memory a boundary that is not cut off or blocked takes an exception; so no word of
unimplemented memory is ever fetched as an instruction (20_memory.md R124, 41 R198). -/
theorem implemented_of_none {s : State} (hr : (checkFetch s).reset = false)
    (hs : (checkFetch s).state.stalled = false) (hn : select (checkFetch s).state = none) :
    progImplemented s (curPc s).toNat = true := by
  by_contra hp
  have hc : checkFetch s = raiseHard .addrErr s := by simp [checkFetch, hp]
  rw [hc] at hr hs hn
  have ht : trapReady .addrErr (raiseHard .addrErr s).state = true := by
    revert hr hs
    unfold raiseHard
    split
    · intro hr; cases hr
    · rename_i hconf
      split
      · split
        · intro hr; cases hr
        · intro _ hs; cases hs
      · rename_i hne
        intro _ _
        have hle : ¬ (Trap.addrErr.level < cpuIpl s) := fun hlt => hconf (by simp [hardTrapConflict, hlt])
        have hlt : cpuIpl s < Trap.addrErr.level := by
          bv_omega
        have hb : trapPending .addrErr (setIntcon1Bit Trap.addrErr.statusBit s) = true :=
          trapPending_setIntcon1Bit_self _ _
        have hi : cpuIpl (setIntcon1Bit Trap.addrErr.statusBit s) = cpuIpl s := rfl
        simp [trapReady, hb, hi, hlt, Trap.hard]
  have hs : (readyTrap (raiseHard .addrErr s).state).isSome = true := by
    rw [readyTrap, List.find?_isSome]
    exact ⟨.addrErr, by decide, ht⟩
  rw [Option.isSome_iff_exists] at hs
  obtain ⟨t, ht'⟩ := hs
  simp [select, ht'] at hn

/-- A boundary with the PC in implemented memory and an exception to take. -/
theorem runBoundary_of_some {s : State} {e : Selected} (hs : s.stalled = false)
    (hp : progImplemented s (curPc s).toNat = true) (hn : select s = some e) :
    runBoundary s = .next (takeStep e s) := by
  simp [runBoundary, checkFetch, hp, hs, hn]

end Sys2Proof.Machine
end

