-- ==== Sys2Proof/Laws/PerInstr.lean ====
section
/-! SUPPORT. A family of statements about each instruction as syntax: its encoding fits its own row of the opcode
table and has as many words as the table gives it (spec/30_encoding.md R152, R154). -/

namespace Sys2Proof.Laws.Fits

/-- The place of an instruction's row in the opcode table. -/
def row : Instr → Fin 5
  | .disi _ => 0
  | .retfie => 1
  | .pwrsav _ => 2
  | .reset => 3
  | .goto _ => 4

/-- The encoding has the words the table gives the instruction, and its first word fits the instruction's row. -/
def Statement (i : Instr) : Prop :=
  (encode i).length = i.words ∧ (opcodeRows[row i]).fits ((encode i).headD 0#24) = true

theorem disi_mask (lit14 : BitVec 14) : (0b1111110000#10 ++ lit14) &&& 0xFFC000#24 = 0xFC0000#24 := by
  apply BitVec.eq_of_getLsbD_eq
  intro i hi
  rw [BitVec.getLsbD_and, BitVec.getLsbD_append]
  interval_cases i <;> simp

theorem goto_mask (target : PAddr) :
    (0x04#8 ++ (target.extractLsb' 1 15 ++ 0#1) : PWord) &&& 0xFF0001#24 = 0x040000#24 := by
  apply BitVec.eq_of_getLsbD_eq
  intro i hi
  rw [BitVec.getLsbD_and, BitVec.getLsbD_append, BitVec.getLsbD_append]
  interval_cases i <;> simp

theorem disi (lit14 : BitVec 14) : Statement (.disi lit14) := ⟨rfl, beq_iff_eq.mpr (disi_mask lit14)⟩

theorem retfie : Statement .retfie := ⟨rfl, rfl⟩

theorem pwrsav (lit1 : BitVec 1) : Statement (.pwrsav lit1) := by
  have h : lit1 = 0#1 ∨ lit1 = 1#1 := by revert lit1; decide
  rcases h with rfl | rfl <;> exact ⟨rfl, rfl⟩

theorem reset : Statement .reset := ⟨rfl, rfl⟩

theorem goto (target : PAddr) : Statement (.goto target) := ⟨rfl, beq_iff_eq.mpr (goto_mask target)⟩

end Sys2Proof.Laws.Fits
end

