-- ==== Sys2Proof/Tests/Slice0.lean ====
section
/-! SUPPORT. Tests on fixed values. Expected results come from spec/95_test_vectors.md, from the tables of
spec/11_interrupt_source_registers.md, or by hand from a rule; each test names its source. Then, for every
obligation with hypotheses, a witness that they can be met, at the boundary values of its clauses. -/

namespace Sys2Proof.Tests

open Sys2Proof.Machine

set_option Elab.async false

/-! ### Helpers -/

/-- What is seen of the next state, if the outcome is one. -/
def seen {α : Type} (view : State → α) : Host.Outcome State Fault Refusal → Option α
  | .next s => some (view s)
  | .fault _ => none
  | .refused _ => none

/-- What is seen of a decoder's answer. -/
def decoded (ws : List PWord) : Option Instr := (decode ws).toOption

/-- The step that runs the word (or two words, the second one higher) at address 0 as the first instruction. -/
def first (nbits w : Nat) (s : State) : Host.Outcome State Fault Refusal := step (s.withFetchWord nbits w)

/-- A machine in the midst of a program: the PC, W15, SR and CORCON. -/
def midst (pc : PAddr) (w15 sr corcon : Word) : State :=
  { State.reset with pc := pc, w15 := w15, sr := sr, corcon := corcon }

/-- A word of data RAM written, little-endian (20_memory.md R132). -/
def withRam (a : Nat) (v : Word) (s : State) : State := setRamWord a v s

/-- A word of program memory. -/
def withProg (a : Nat) (v : PWord) (s : State) : State := { s with prog := Memory.store s.prog a v }

/-- The source is requested, at a level. -/
def requested (q : Source) (level : BitVec 3) (s : State) : State :=
  let r := Source.priorityReg q
  let keep := readReg (.ipc r) s &&& ~~~(0x7#16 <<< (4 * (q.val % 4)))
  swWriteBit (.iec (Source.flagReg q)) ⟨q.val % 16, by omega⟩ true
    (setFlag q (swWrite (.ipc r) (keep ||| (level.setWidth 16 <<< (4 * (q.val % 4)))) s))

/-! ### Well-formedness and decoding -/

/-- R154: a `GOTO` target is even. -/
theorem test_wf_refuses_odd_goto : (Instr.goto 0x000201#23).wf = false := by decide

/-- 95 section 2.13, and R154 for the fields. -/
theorem test_decode_disi : decoded [0b111111000000000000000010#24] = some (.disi 2#14) := by decide
theorem test_decode_disi_longest : decoded [0b111111000011111111111111#24] = some (.disi 0x3FFF#14) := by decide
theorem test_decode_retfie : decoded [0b000001100100000000000000#24] = some .retfie := by decide
theorem test_decode_pwrsav : decoded [0b111111100100000000000001#24] = some (.pwrsav 1#1) := by decide
theorem test_decode_reset : decoded [0b111111100000000000000000#24] = some .reset := by decide
theorem test_decode_goto :
    decoded [0b000001000010001101000110#24, 0b000000000000000000000001#24] = some (.goto 0x012346#23) := by decide

/-- 95 section 2.13: 0xFC4000 and an odd first word of `GOTO` are refused; R154: so is a second word with bit 7. -/
theorem test_decode_refuses :
    decoded [0xFC4000#24] = none ∧ decoded [0x040201#24, 0#24] = none ∧ decoded [0x040200#24, 0x80#24] = none := by
  decide

/-- The host's numbering: the second word of a `GOTO` in bits 47:24. -/
theorem test_decodeTableWord :
    decodeTableWord 48 0x000001042346 = some (.goto 0x012346#23) ∧ decodeTableWord 24 0xFE4000 = some (.pwrsav 0#1) := by
  decide

/-- R154: no word matches two rows. -/
theorem test_rows_do_not_overlap :
    opcodeRows.Pairwise fun r t => r.value &&& t.mask ≠ t.value &&& r.mask := by decide

/-! ### The sources -/

/-- 11 R71, R79: the default `IMPLEMENTED` is the set of the named sources; there are 67. -/
theorem test_named_sources :
    sourceSet namedSources = Params.default.implemented ∧ namedSources.length = 67 := by decide +kernel

/-- A1, A2 of 95: T4 and C2TX by name, register and vector. -/
theorem test_source_places :
    sourceNamed "T4" = some 27 ∧ (Source.flagReg 27).val = 1 ∧ (Source.priorityReg 27).val = 6 ∧
    vectorAddr false (Source.vector 27) = 0x00004A ∧ vectorAddr true (Source.vector 71) = 0x0001A2 := by
  decide +kernel

/-- A5, A6, A7, A9 of 95. -/
theorem test_unimplemented_bits_read_zero :
    readReg (.ifs 0) (swWrite (.ifs 0) 0xFFFF#16 State.reset) = 0x7FFF#16 ∧
    readReg (.iec 1) (swWrite (.iec 1) 0xFFFF#16 State.reset) = 0xFFFB#16 ∧
    readReg (.ifs 4) (swWrite (.ifs 4) 0xFFFF#16 State.reset) = 0x00F7#16 ∧
    readReg (.ipc 11) (swWrite (.ipc 11) 0xFFFF#16 State.reset) = 0x7707#16 := by decide +kernel

/-- A13, A14 of 95. -/
theorem test_write_sr :
    (swWrite .sr 0x00FF#16 State.reset).sr = 0x00EF#16 ∧
    (swWrite .sr 0x00FF#16 { State.reset with intcon1 := 0x8000#16 }).sr = 0x000F#16 := by decide +kernel

/-- G13 of 95. -/
theorem test_matherr_blocked :
    (swWrite .intcon1 0x0400#16 { State.reset with intcon1 := 0x4410#16, sr := 0x8000#16 }).intcon1 = 0x0410#16 ∧
    (swWrite .intcon1 0x0400#16 { State.reset with intcon1 := 0x4410#16 }).intcon1 = 0x0400#16 := by decide +kernel

/-! ### One step for each instruction, right after reset or in the midst of a program -/

/-- E1 of 95, first instruction: the count is not yet decremented. -/
theorem test_step_disi :
    seen (fun t => (t.disicnt, t.disiLatch, readReg .intcon2 t, curPc t)) (first 24 0xFC0003 State.reset)
      = some (3#14, true, 0x4000#16, 0x000002#23) := by decide +kernel

/-- E8 of 95. -/
theorem test_step_disi_zero :
    seen (fun t => (t.disicnt, t.disiLatch))
        (first 24 0xFC0000 { State.reset with disicnt := 50#14, disiLatch := true })
      = some (0#14, false) := by decide +kernel

/-- D1 of 95. -/
theorem test_step_retfie :
    seen (fun t => (sp t, t.sr, t.corcon, curPc t))
        (first 24 0x064000 (withRam 0x0902 0x8101#16 (withRam 0x0900 0x2346#16
          (midst 0x001000#23 0x0904#16 0x00C1#16 0x0020#16))))
      = some (0x0900#16, 0x0081#16, 0x0020#16, 0x012346#23) := by decide +kernel

/-- D6 of 95: the second pop is below 0x0800. -/
theorem test_step_retfie_underflow :
    seen (fun t => (sp t, t.intcon1))
        (first 24 0x064000 (withRam 0x0800 0x0000#16 (withRam 0x07FE 0x0300#16
          (midst 0x001000#23 0x0802#16 0x0000#16 0x0020#16))))
      = some (0x07FE#16, 0x0004#16) := by decide +kernel

/-- J1 and J7 of 95, before the event. -/
theorem test_step_pwrsav :
    seen (fun t => (t.power, curPc t)) (first 24 0xFE4000 State.reset) = some (.sleep, 0x000002#23) ∧
    seen (fun t => (t.power, curPc t)) (first 24 0xFE4001 State.reset) = some (.idle, 0x000002#23) := by
  decide +kernel

/-- K2 of 95. -/
theorem test_step_reset :
    seen (fun t => (sp t, t.corcon, t.trapr, curPc t, iecRead t 0))
        (first 24 0xFE0000 (swWrite (.iec 0) 0x0188#16 (midst 0x001000#23 0x0950#16 0x0000#16 0x0028#16)))
      = some (0x0800#16, 0x0020#16, false, 0x000000#23, 0x0000#16) := by decide +kernel

/-- K3 of 95. -/
theorem test_step_goto :
    seen curPc (first 48 0x000000040200 State.reset) = some 0x000200#23 := by decide +kernel

/-- R152 and P1 of 95: `NOP` moves the PC on, and so does a second word of a `GOTO` run as a first word. -/
theorem test_step_nop :
    seen curPc (first 24 0x000000 State.reset) = some 0x000002#23 ∧
    seen curPc (first 24 0x00007F State.reset) = some 0x000002#23 := by decide +kernel

/-- P4 of 95, first step: the target is not implemented. -/
theorem test_step_goto_unimplemented :
    seen (fun t => (curPc t, t.intcon1)) (first 48 0x00000004F000 State.reset)
      = some (0x00F000#23, 0x0008#16) := by decide +kernel

/-! ### Entry and arbitration -/

/-- C1 of 95. -/
def beforeC1 : State :=
  withProg 0x000024 0x002000#24 (requested 8 6#3
    { midst 0x012346#23 0x0900#16 0x0081#16 0x0020#16 with
      params := { Params.default with progImpl := [(0, 0x01FFFF)] } })

theorem test_entry_interrupt :
    seen (fun t => (ramWord t 0x0900, ramWord t 0x0902, sp t, t.sr, curPc t, flagOf t 8)) (step beforeC1)
      = some (0x2346#16, 0x8101#16, 0x0904#16, 0x00C1#16, 0x002000#23, true) := by decide +kernel

/-- C4 of 95. -/
theorem test_entry_trap :
    seen (fun t => (ramWord t 0x0800, ramWord t 0x0802, t.corcon, t.sr, cpuIpl t, curPc t, t.intcon1))
        (step (withProg 0x000008 0x000A00#24
          { midst 0x000300#23 0x0800#16 0x0000#16 0x0020#16 with intcon1 := 0x0008#16 }))
      = some (0x0300#16, 0x0000#16, 0x0028#16, 0x00A0#16, 13#4, 0x000A00#23, 0x0008#16) := by decide +kernel

/-- B1, B2, B13 and B15 of 95. -/
theorem test_select :
    select (requested 7 4#3 (requested 3 4#3 State.reset)) = some ⟨11, 4#4, .interrupt⟩ ∧
    select (requested 8 6#3 (requested 3 2#3 State.reset)) = some ⟨16, 6#4, .interrupt⟩ ∧
    select { requested 3 6#3 State.reset with disiLatch := true } = none ∧
    select { requested 0 7#3 (requested 3 6#3 State.reset) with disiLatch := true }
      = some ⟨8, 7#4, .interrupt⟩ := by decide +kernel

/-- A10 of 95. -/
theorem test_write_intcon2 : readReg .intcon2 (swWrite .intcon2 0xFFFF#16 State.reset) = 0x801F#16 := by
  decide +kernel

/-- H1 of 95: the hard-trap conflict. -/
theorem test_conflict :
    ((raiseHard .addrErr (midst 0x000400#23 0x0904#16 0x00C0#16 0x0028#16)).state.trapr,
      (raiseHard .addrErr (midst 0x000400#23 0x0904#16 0x00C0#16 0x0028#16)).reset) = (true, true) := by
  decide +kernel

/-- I3 of 95: INT2 on its negative edge. -/
theorem test_pin :
    readReg (.ifs 1) (deliver (.pin 2 false) { State.reset with intcon2 := 0x0004#16, pins := 4#5 })
      = 0x2000#16 := by decide +kernel

/-- R136: a store that would have moved W15 is held back, and the address error it led to is raised all the same
(by hand: W15 is at 0x001E, 0x9000 is not implemented). -/
theorem test_held_store_keeps_the_error :
    ((effects false [.store (.abs 0x001E#16) .word (.lit 0x9000#16), .load (.w15 0) .word] State.reset).state.intcon1,
      sp (effects false [.store (.abs 0x001E#16) .word (.lit 0x9000#16), .load (.w15 0) .word] State.reset).state)
      = (0x0008#16, 0x0800#16) := by decide +kernel

/-- R136, R199: a literal target that raises the address error holds back the stores of its instruction. -/
theorem test_literal_target_holds_stores :
    ((runOrdinary ⟨[.write .splim (.lit 0x0900#16)], .literal 0x00B000#23, 2⟩ State.reset).splimArmed,
      (runOrdinary ⟨[.write .splim (.lit 0x0900#16)], .literal 0x00B000#23, 2⟩ State.reset).intcon1)
      = (false, 0x0008#16) := by decide +kernel

/-- R127, R191: an X-side fetch through W15 below 0x0800 raises the stack error. -/
theorem test_fetch_through_w15 :
    (act false (.fetchX (.w15 (-2))) State.reset).state.intcon1 = 0x0004#16 := by decide +kernel

/-- R124: the tables are implemented whatever the parameters are. -/
theorem test_tables_are_implemented :
    progImplemented { State.reset with params := { Params.default with progImpl := [] } } 0x0001FE = true ∧
    progImplemented { State.reset with params := { Params.default with progImpl := [] } } 0x000200 = false := by
  decide

/-- G1 of 95. -/
theorem test_push_above_limit :
    (pushWord true 0x1234#16 { State.reset with w15 := 0x1000#16, splim := 0x0FFE#16, splimArmed := true }).intcon1
      = 0x0004#16 := by decide +kernel

/-! ### Witnesses: the hypotheses of the obligations can be met -/

/-- The machine after reset with `DISI #3` at the PC: in Run, nothing to take. -/
def atDisi : State := State.reset.withFetchWord 24 0xFC0003

/-- The machine after reset with a word of no row at the PC (`MOV #0x0008,W0` of P1). -/
def atUnknown : State := State.reset.withFetchWord 24 0x200080

/-- The machine after reset with a word at the PC whose top 8 bits are 0. -/
def atNop : State := State.reset.withFetchWord 24 0x00FFFF

/-- The machine asleep, T1 flagged and enabled at a level. -/
def asleep (level : BitVec 3) : State := { requested 3 level State.reset with power := .sleep }

/-- In a trap handler at the CPU priority 8 + IPL, the PC in unimplemented program memory. -/
def lost (iplBits : BitVec 3) (blocked : HardTrapBlocked) : State :=
  { midst 0x00B000#23 0x0A00#16 (withIpl iplBits 0#16) 0x0028#16 with
    params := { Params.default with hardTrapBlocked := blocked } }

/-- The stack pointer at an address, the limit armed at another; all of data space above the SFRs is RAM. -/
def stackAt (w15 limit : Word) : State :=
  { State.reset with
    w15 := w15, splim := limit, splimArmed := true
    params := { Params.default with dataImpl := [(0x0000, 0xFFFF)] } }

/-- As `stackAt`, the limit not armed, with `EXC_PUSH_STACK_CHECK` = `unchecked`. -/
def uncheckedAt (w15 : Word) : State :=
  { State.reset with w15 := w15, params := { Params.default with excPushStackCheck := .unchecked } }

theorem test_witness_DecodeFollowsTheTable :
    0xFC3FFF#24 &&& 0xFFC000#24 = 0xFC0000#24 ∧ 0x064000#24 &&& 0xFFFFFF#24 = 0x064000#24 ∧
    0xFE4001#24 &&& 0xFFFFFE#24 = 0xFE4000#24 ∧ 0xFE0000#24 &&& 0xFFFFFF#24 = 0xFE0000#24 ∧
    0x04FFFE#24 &&& 0xFF0001#24 = 0x040000#24 ∧ 0x00007F#24 &&& 0xFFFF80#24 = 0x000000#24 ∧
    0x000080#24 &&& 0xFFFF80#24 ≠ 0x000000#24 ∧ (∀ r ∈ opcodeRows, r.fits 0xFC4000#24 = false) := by decide

theorem test_witness_DecodeOfEncode :
    (Instr.goto 0x7FFFFE#23).wf = true ∧ (Instr.disi 0x3FFF#14).wf = true := by decide

theorem test_witness_ProgrammedWordIsDecoded :
    (curPc State.reset).toNat + 2 < 2 ^ 23 ∧ progImplemented State.reset (curPc State.reset).toNat = true ∧
    progImplemented State.reset ((curPc State.reset).toNat + 2) = true := by decide

theorem test_witness_StepRunsTheDecodedInstruction :
    (beginStep atDisi).stalled = false ∧ (beginStep atDisi).power = .run ∧
    progImplemented (beginStep atDisi) (curPc (beginStep atDisi)).toNat = true ∧
    select (beginStep atDisi) = none ∧ (decodeAtPc (beginStep atDisi)).toOption = some (.disi 3#14) := by
  decide +kernel

theorem test_witness_EndOfAnInstruction :
    State.reset.disiLoaded = false ∧ { State.reset with disiLoaded := true }.disiLoaded = true := by decide

/-- An interrupt, and a trap before an interrupt. -/
theorem test_witness_StepTakesTheSelectedException :
    (beginStep beforeC1).stalled = false ∧ (beginStep beforeC1).power = .run ∧
    progImplemented (beginStep beforeC1) (curPc (beginStep beforeC1)).toNat = true ∧
    select (beginStep beforeC1) = some ⟨16, 6#4, .interrupt⟩ ∧
    select (beginStep { beforeC1 with intcon1 := 0x0010#16 }) = some ⟨4, 11#4, .trap⟩ := by decide +kernel

/-- Awake by a source of level 1, awake by a trap, and asleep with a source of level 0. -/
theorem test_witness_SleepAndWakeUp :
    (beginStep (asleep 1#3)).stalled = false ∧ (beginStep (asleep 1#3)).power ≠ .run ∧
    intReq (beginStep (asleep 1#3)) 3 = true ∧ priorityOf (beginStep (asleep 1#3)) 3 ≠ 0#3 ∧
    trapReady .dmacErr (beginStep { asleep 0#3 with intcon1 := 0x0020#16 }) = true ∧
    (beginStep (asleep 0#3)).power ≠ .run ∧
    (∀ q : Source, intReq (beginStep (asleep 0#3)) q = true → priorityOf (beginStep (asleep 0#3)) q = 0#3) := by
  decide +kernel

theorem test_witness_SleepAndWakeUp_no_trap : ∀ t : Trap, trapReady t (beginStep (asleep 0#3)) = false := by
  intro t; cases t <;> decide +kernel

/-- CPU priority 12; an oscillator failure pending; 14; 13 with both values of the parameter. -/
theorem test_witness_UnimplementedPcTakesTheAddressError :
    (beginStep (lost 4#3 .reset)).stalled = false ∧ (beginStep (lost 4#3 .reset)).power = .run ∧
    progImplemented (beginStep (lost 4#3 .reset)) (curPc (beginStep (lost 4#3 .reset))).toNat = false ∧
    trapPending .oscFail (beginStep (lost 4#3 .reset)) = false ∧ cpuIpl (beginStep (lost 4#3 .reset)) = 12#4 ∧
    trapPending .oscFail (beginStep { lost 0#3 .reset with intcon1 := 0x0002#16 }) = true ∧
    cpuIpl (beginStep (lost 6#3 .reset)) = 14#4 ∧ cpuIpl (beginStep (lost 5#3 .reset)) = 13#4 ∧
    cpuIpl (beginStep (lost 5#3 .stall)) = 13#4 ∧
    (beginStep (lost 5#3 .stall)).params.hardTrapBlocked = .stall := by decide +kernel

theorem test_witness_StalledMachineStops :
    (beginStep { State.reset with stalled := true }).stalled = true := by decide +kernel

/-- No instruction of the environment; one; a `GOTO` with a bad second word. -/
theorem test_witness_WordOutsideTheTable :
    (beginStep atUnknown).stalled = false ∧ (beginStep atUnknown).power = .run ∧
    progImplemented (beginStep atUnknown) (curPc (beginStep atUnknown)).toNat = true ∧
    select (beginStep atUnknown) = none ∧ (beginStep atUnknown).ordinary = [] ∧
    select (beginStep atNop) = none ∧ (beginStep atNop).power = .run ∧
    (beginStep { atUnknown with ordinary := [⟨[], .sequential false, 1⟩] }).ordinary
      = [⟨[], .sequential false, 1⟩] ∧
    select (beginStep (State.reset.withFetchWord 48 0x000080040200)) = none := by decide +kernel

theorem test_witness_WordOutsideTheTable_words :
    decodeAtPc (beginStep atUnknown) = .error (.unknownWord 0x200080#24) ∧
    (0x200080#24).extractLsb' 16 8 ≠ 0#8 ∧ (0x010000#24).extractLsb' 16 8 ≠ 0#8 ∧
    decodeAtPc (beginStep atNop) = .error (.unknownWord 0x00FFFF#24) ∧ (0x00FFFF#24).extractLsb' 16 8 = 0#8 ∧
    decodeAtPc (beginStep (State.reset.withFetchWord 48 0x000080040200))
      = .error (.gotoSecondWord 0x000080#24) := ⟨rfl, by decide, by decide, rfl, by decide, rfl⟩

/-- A word of the table; a word that executes as a `NOP`; a word of the environment. -/
theorem test_witness_StepCompletes :
    (beginStep atDisi).stalled = false ∧ decodeAtPc (beginStep atDisi) = .ok (.disi 3#14) ∧
    (decodeAtPc (beginStep atNop) = .error (.unknownWord 0x00FFFF#24) ∧ executesAsNop 0x00FFFF#24 = true) ∧
    (beginStep { atUnknown with ordinary := [⟨[], .sequential false, 1⟩] }).ordinary ≠ [] ∧
    ∀ w, decodeAtPc (beginStep { atUnknown with ordinary := [⟨[], .sequential false, 1⟩] })
      ≠ .error (.gotoSecondWord w) :=
  ⟨rfl, rfl, ⟨rfl, by decide⟩, by decide, fun w h => by
    have e : decodeAtPc (beginStep { atUnknown with ordinary := [⟨[], .sequential false, 1⟩] })
      = .error (.unknownWord 0x200080#24) := rfl
    rw [e] at h; cases h⟩

/-- The least and the greatest literal; the last address that leaves the PC below the top. -/
theorem test_witness_DisiLoadsCountAndLatch :
    1#14 ≠ 0#14 ∧ 0x3FFF#14 ≠ 0#14 ∧
    (curPc (midst 0x7FFFFC#23 0x0800#16 0#16 0#16)).toNat + 2 < 2 ^ 23 := by decide

theorem test_witness_DisiZero_and_PwrsavStopsTheCpu :
    (curPc State.reset).toNat + 2 < 2 ^ 23 ∧ (0#1 = 0#1) ∧ (1#1 = 1#1) := by decide

/-- The last implemented target, even and odd. -/
theorem test_witness_GotoImplemented :
    progImplemented State.reset (evenPc 0x00AFFE#23).toNat = true ∧
    progImplemented State.reset (evenPc 0x00AFFF#23).toNat = true := by decide

/-- The first unimplemented target, at CPU priority 0 and 12. -/
theorem test_witness_LiteralBranchToUnimplementedMemory :
    progImplemented State.reset (evenPc 0x00B000#23).toNat = false ∧
    trapPending .oscFail State.reset = false ∧ cpuIpl State.reset < 13#4 ∧
    trapPending .oscFail (lost 4#3 .reset) = false ∧ cpuIpl (lost 4#3 .reset) < 13#4 := by decide +kernel

theorem test_witness_LiteralBranchUnderConflict :
    progImplemented (lost 6#3 .reset) (evenPc 0x00B000#23).toNat = false ∧ 13#4 < cpuIpl (lost 6#3 .reset) ∧
    trapPending .oscFail { State.reset with intcon1 := 0x0002#16 } = true := by decide +kernel

/-- Pops at 0x0802 and 0x0800, the second exactly at the lower bound; at 0x0900 and 0x08FE, the first exactly at
the limit; at 0x0800 and 0x07FE, the second below the bound. -/
theorem test_witness_RetfieRestoresTheFrame :
    (ramAt (stackAt 0x0804#16 0x0900#16) 0x0802#16 ∧ ramAt (stackAt 0x0804#16 0x0900#16) 0x0800#16) ∧
    (ramAt (stackAt 0x0902#16 0x0900#16) 0x0900#16 ∧ ramAt (stackAt 0x0902#16 0x0900#16) 0x08FE#16) ∧
    (ramAt (stackAt 0x0802#16 0x0900#16) 0x0800#16 ∧ ramAt (stackAt 0x0802#16 0x0900#16) 0x07FE#16) := by
  unfold ramAt; decide +kernel

theorem test_witness_RetfieRestoresTheFrame_checks :
    stackViolation (stackAt 0x0804#16 0x0900#16) 0x0802 0x0802#16 = false ∧
    stackViolation (stackAt 0x0804#16 0x0900#16) 0x0800 0x0800#16 = false ∧
    stackViolation (stackAt 0x0902#16 0x0900#16) 0x0900 0x0900#16 = false ∧
    stackViolation (stackAt 0x0904#16 0x0900#16) 0x0902 0x0902#16 = true ∧
    stackViolation (stackAt 0x0802#16 0x0900#16) 0x07FE 0x07FE#16 = true ∧
    trapPending .stkErr (stackAt 0x0802#16 0x0900#16) = false ∧
    trapPending .stkErr { stackAt 0x0802#16 0x0900#16 with intcon1 := 0x0004#16 } = true := by decide +kernel

/-- Both pops go on; the first is cut off; the second is. -/
theorem test_witness_RetfieRestoresWhatItPops :
    ((popWord (stackAt 0x0804#16 0x0900#16)).flow.reset = false ∧
      (popWord (popWord (stackAt 0x0804#16 0x0900#16)).flow.state).flow.reset = false) ∧
    (popWord (midst 0x000400#23 0x9000#16 0x00C0#16 0x0028#16)).flow.reset = true ∧
    ((popWord (midst 0x000400#23 0x0002#16 0x00C0#16 0x0028#16)).flow.reset = false ∧
      (popWord (popWord (midst 0x000400#23 0x0002#16 0x00C0#16 0x0028#16)).flow.state).flow.reset = true) := by
  decide +kernel

/-- At the lower bound, at the limit, above it, below 0x0800, at the end of data space. -/
theorem test_witness_PushWritesAtW15 :
    ramAt (stackAt 0x0800#16 0x0900#16) 0x0800#16 ∧ ramAt (stackAt 0x0900#16 0x0900#16) 0x0900#16 ∧
    ramAt (stackAt 0x0902#16 0x0900#16) 0x0902#16 ∧ ramAt (stackAt 0x07FE#16 0x0900#16) 0x07FE#16 ∧
    ramAt (stackAt 0xFFFE#16 0xFFFE#16) 0xFFFE#16 := by
  unfold ramAt; decide +kernel

theorem test_witness_PushWritesAtW15_checks :
    ((stackAt 0x0902#16 0x0900#16).splimArmed = true ∧
      (stackAt 0x0902#16 0x0900#16).splim < sp (stackAt 0x0902#16 0x0900#16)) ∧
    sp (stackAt 0x07FE#16 0x0900#16) < 0x0800#16 ∧
    (sp (stackAt 0x0900#16 0x0900#16) ≤ (stackAt 0x0900#16 0x0900#16).splim ∧
      0x0800#16 ≤ sp (stackAt 0x0800#16 0x0900#16)) ∧
    trapPending .stkErr (stackAt 0x0902#16 0x0900#16) = false ∧
    trapPending .stkErr { stackAt 0x0902#16 0x0900#16 with intcon1 := 0x0004#16 } = true := by decide +kernel

/-- Data RAM; the register INTCON1; nothing, at CPU priority 0. -/
theorem test_witness_PopReadsBelowW15 :
    placeOf State.reset (sp { State.reset with w15 := 0x0802#16 } - 2#16).toNat = .ram ∧
    placeOf State.reset (sp { State.reset with w15 := 0x0082#16 } - 2#16).toNat = .reg .intcon1 ∧
    placeOf State.reset (sp { State.reset with w15 := 0x2802#16 } - 2#16).toNat = .absent ∧
    trapPending .oscFail { State.reset with w15 := 0x2802#16 } = false ∧
    cpuIpl { State.reset with w15 := 0x2802#16 } < 13#4 ∧
    stackViolation { State.reset with w15 := 0x2802#16 } 0x2800 0x2800#16 = false ∧
    stackViolation { State.reset with w15 := 0x2802#16, splim := 0x27FE#16, splimArmed := true } 0x2800 0x2800#16 = true ∧
    (popWord { State.reset with w15 := 0x0802#16 }).flow.reset = false := by decide +kernel

/-- The frame at 0x0800 and 0x0802 inside the bounds; at 0x07FC and 0x07FE with unchecked pushes. -/
theorem test_witness_EntrySavesAndJumps :
    (ramAt (stackAt 0x0800#16 0x0802#16) 0x0800#16 ∧ ramAt (stackAt 0x0800#16 0x0802#16) 0x0802#16) ∧
    (stackViolation (stackAt 0x0800#16 0x0802#16) 0x0800 0x0800#16 = false ∧
      stackViolation (stackAt 0x0800#16 0x0802#16) 0x0802 0x0802#16 = false) ∧
    (ramAt (uncheckedAt 0x07FC#16) 0x07FC#16 ∧ ramAt (uncheckedAt 0x07FC#16) 0x07FE#16) ∧
    (uncheckedAt 0x07FC#16).params.excPushStackCheck = .unchecked := by
  unfold ramAt; decide +kernel

/-- Levels 8 and 15 of a trap, 7 of an interrupt, with and without NSTDIS. -/
theorem test_witness_EntryPriority :
    ramAt (stackAt 0x0800#16 0x0900#16) 0x0800#16 ∧ ramAt (stackAt 0x0800#16 0x0900#16) 0x0802#16 ∧
    8#4 ≤ 8#4 ∧ 8#4 ≤ 15#4 ∧ 7#4 ≤ 7#4 ∧ ipl3 (stackAt 0x0800#16 0x0900#16) = false ∧
    nstdis (stackAt 0x0800#16 0x0900#16) = false ∧
    nstdis { stackAt 0x0800#16 0x0900#16 with intcon1 := 0x8000#16 } = true := by
  unfold ramAt; decide +kernel

/-- The first push below 0x0800; the second above the limit. -/
theorem test_witness_EntryStackError :
    (ramAt (stackAt 0x07FE#16 0x0900#16) 0x07FE#16 ∧ ramAt (stackAt 0x07FE#16 0x0900#16) 0x0800#16) ∧
    (stackAt 0x07FE#16 0x0900#16).params.excPushStackCheck = .checked ∧
    stackViolation (stackAt 0x07FE#16 0x0900#16) 0x07FE 0x07FE#16 = true ∧
    (ramAt (stackAt 0x0900#16 0x0900#16) 0x0900#16 ∧ ramAt (stackAt 0x0900#16 0x0900#16) 0x0902#16) ∧
    stackViolation (stackAt 0x0900#16 0x0900#16) 0x0902 0x0902#16 = true := by
  unfold ramAt; decide +kernel

theorem test_witness_RetfieUndoesEntry :
    ramAt (stackAt 0x0800#16 0x0802#16) 0x0800#16 ∧ ramAt (stackAt 0x0800#16 0x0802#16) 0x0802#16 ∧
    stackViolation (stackAt 0x0800#16 0x0802#16) 0x0800 0x0800#16 = false ∧
    stackViolation (stackAt 0x0800#16 0x0802#16) 0x0802 0x0802#16 = false := by
  unfold ramAt; decide +kernel

/-- Of two ready sources of one level the one of smaller number; and none right after reset. -/
theorem test_witness_WinnerOfArbitration :
    winner (requested 7 4#3 (requested 3 4#3 State.reset)) = some 3 ∧
    intReady (requested 7 4#3 (requested 3 4#3 State.reset)) 7 = true ∧ winner State.reset = none := by
  decide +kernel

/-- Two ready traps; then interrupts only; then nothing. -/
theorem test_witness_SelectTakesTrapsFirst :
    (trapReady .stkErr { requested 3 7#3 State.reset with intcon1 := 0x0024#16 } = true ∧
      ∀ u : Trap, trapReady u { requested 3 7#3 State.reset with intcon1 := 0x0024#16 } = true →
        u.level ≤ Trap.level .stkErr) ∧
    ((∀ t : Trap, trapReady t (requested 3 7#3 State.reset) = false) ∧
      winner (requested 3 7#3 State.reset) = some 3) ∧
    ((∀ t : Trap, trapReady t State.reset = false) ∧ ∀ q : Source, intReady State.reset q = false) := by
  refine ⟨⟨by decide +kernel, fun u => ?_⟩, ⟨fun t => ?_, by decide +kernel⟩, fun t => ?_, by decide +kernel⟩
  · cases u <;> decide +kernel
  · cases t <;> decide +kernel
  · cases t <;> decide +kernel

theorem test_witness_LevelZeroIsDisabled :
    priorityOf (requested 3 0#3 State.reset) 3 = 0#3 ∧ sourceImplemented State.reset.params 3 = true ∧
    ∀ r : Source, r ≠ 3 → intReq (requested 3 0#3 State.reset) r = false := by decide +kernel

theorem test_witness_DisiMasksLevelsOneToSix :
    priorityOf (requested 3 6#3 State.reset) 3 ≤ 6#3 ∧ priorityOf (requested 3 1#3 State.reset) 3 ≤ 6#3 ∧
    priorityOf (requested 3 7#3 State.reset) 3 = 7#3 ∧ intReq (requested 3 6#3 State.reset) 3 = true ∧
    cpuIpl (requested 3 6#3 State.reset) < (priorityOf (requested 3 6#3 State.reset) 3).setWidth 4 := by
  decide +kernel

theorem test_witness_WriteIntcon2 :
    maskedByDisi { requested 3 6#3 State.reset with disiLatch := true } 3 = true := by decide +kernel

/-- With IPL3 = 1 a trap is selected. -/
theorem test_witness_CpuPriorityLevel :
    (midst 0x000400#23 0x0904#16 0x0040#16 0x0028#16).corcon.getLsbD 3 = true ∧
    select { midst 0x000400#23 0x0904#16 0x0040#16 0x0028#16 with intcon1 := 0x0010#16 }
      = some ⟨4, 11#4, .trap⟩ := by decide +kernel

theorem test_witness_EveryTrapIsReady :
    ipl3 { State.reset with sr := 0x00E0#16, intcon1 := 0x0020#16 } = false ∧
    trapPending .dmacErr { State.reset with sr := 0x00E0#16, intcon1 := 0x0020#16 } = true ∧
    skidLeft .dmacErr { State.reset with sr := 0x00E0#16, intcon1 := 0x0020#16 } = 0 ∧
    trapReady .dmacErr { State.reset with sr := 0x00E0#16, intcon1 := 0x0020#16 } = true := by decide +kernel

/-- CPU priority 12, 13 (both values of the parameter), 14 and 15; an oscillator failure pending. -/
theorem test_witness_HardTrapRaised :
    cpuIpl (lost 4#3 .reset) < 13#4 ∧ trapPending .oscFail (lost 4#3 .reset) = false ∧
    cpuIpl (lost 5#3 .reset) = 13#4 ∧ cpuIpl (lost 5#3 .stall) = 13#4 ∧
    cpuIpl (lost 5#3 .stall) < 14#4 ∧ cpuIpl (lost 6#3 .stall) = 14#4 ∧ 13#4 < cpuIpl (lost 6#3 .stall) ∧
    cpuIpl (lost 7#3 .reset) = 15#4 ∧
    trapPending .oscFail { State.reset with intcon1 := 0x0002#16 } = true := by decide +kernel

theorem test_witness_SoftTrapRaised :
    Trap.hard .stkErr = false ∧ Trap.hard .mathErr = false ∧ Trap.hard .dmacErr = false ∧
    trapPending .mathErr State.reset = false ∧
    trapPending .mathErr { State.reset with intcon1 := 0x0010#16 } = true ∧ (Trap.mathErr ≠ Trap.stkErr) := by
  decide +kernel

theorem test_witness_OscillatorFailure :
    cpuIpl State.reset < 14#4 ∧ cpuIpl (lost 5#3 .reset) < 14#4 := by decide +kernel

/-- 17, -17, 16 and -16. -/
theorem test_witness_AccumulatorShift :
    16 < (17 : Int) ∧ (-17 : Int) < -16 ∧ -16 ≤ (16 : Int) ∧ (16 : Int) ≤ 16 ∧ -16 ≤ (-16 : Int) := by decide

theorem test_witness_FlagSetByPeripheral :
    sourceImplemented State.reset.params 71 = true ∧ sourceImplemented State.reset.params 15 = false ∧
    (0 : Source) ≠ 71 := by decide

/-- INT0 rises on its positive edge; INT2 falls on its negative edge. -/
theorem test_witness_PinEdge :
    (State.reset.pins.getLsbD 0 = !true ∧ State.reset.intcon2.getLsbD 0 = !true ∧
      sourceImplemented State.reset.params (pinSource 0) = true) ∧
    ({ State.reset with pins := 4#5 }.pins.getLsbD 2 = !false ∧
      { State.reset with intcon2 := 4#16 }.intcon2.getLsbD 2 = !false) ∧
    State.reset.pins.getLsbD 4 = false ∧ State.reset.intcon2.getLsbD 4 = false ∧
    (117 : Source) ≠ pinSource 4 ∧ (4 : Fin 5) ≠ 0 := by decide

/-- SA is 1 before and stays 1; RA and DA are 1 before and stay 1; SB is 0 before and stays 0. -/
theorem test_witness_WriteSr :
    (swWrite .sr 0xFFFF#16 { State.reset with sr := 0x2000#16 }).sr.getLsbD 13 = true ∧ 8 ≤ 13 ∧
    (swWrite .sr 0x0000#16 { State.reset with sr := 0x0210#16 }).sr = 0x0210#16 ∧
    (swWrite .sr 0xFFFF#16 State.reset).sr.getLsbD 12 = false := by
  decide +kernel

/-- 0; 0x4000, whose low 14 bits are 0; 1 and 0x3FFF. -/
theorem test_witness_WriteDisicnt :
    (0x0000#16).extractLsb' 0 14 = 0#14 ∧ (0x4000#16).extractLsb' 0 14 = 0#14 ∧
    (0x0001#16).extractLsb' 0 14 ≠ 0#14 ∧ (0x3FFF#16).extractLsb' 0 14 ≠ 0#14 := by decide

/-- A write that leaves a trap pending, and one that does not. -/
theorem test_witness_WriteIntcon1 :
    (15 ≠ 0 ∧ 15 ≠ 4) ∧
    trapPending .stkErr (swWrite .intcon1 0x0000#16 { State.reset with intcon1 := 0x0004#16 }) = false ∧
    trapPending .stkErr (swWrite .intcon1 0x0004#16 { State.reset with intcon1 := 0x0004#16 }) = true ∧
    skidLeft .stkErr { State.reset with intcon1 := 0x0004#16, skidStk := ⟨2, false⟩ } = 2 := by
  decide +kernel

theorem test_witness_WriteSourceRegisters :
    sourceImplemented State.reset.params 0 = true ∧ sourceImplemented State.reset.params 71 = true ∧
    sourceImplemented State.reset.params 117 = false ∧ (7 : Fin 8) ≠ 0 ∧ (29 : Fin 30) ≠ 0 := by decide

/-- CPU priority 0 and 12; odd addresses; absent memory; an X-side fetch in Y space and a Y-side fetch in X space. -/
theorem test_witness_DataAccesses :
    (trapPending .oscFail State.reset = false ∧ cpuIpl State.reset < 13#4) ∧
    (trapPending .oscFail (lost 4#3 .reset) = false ∧ cpuIpl (lost 4#3 .reset) < 13#4) ∧
    (0x0901#16).getLsbD 0 = true ∧ (0xFFFF#16).getLsbD 0 = true ∧
    placeOf State.reset (0x2800#16).toNat = .absent ∧ placeOf State.reset (0xFFFE#16).toNat = .absent ∧
    inRanges State.reset.params.ySpace (0x1800#16).toNat = true ∧
    inRanges State.reset.params.xSpace (0x17FE#16).toNat = true ∧
    inRanges State.reset.params.ySpace (0x17FE#16).toNat = false ∧
    inRanges State.reset.params.xSpace (0x1800#16).toNat = false ∧
    dataImplemented State.reset (0x17FE#16).toNat = true ∧ dataImplemented State.reset (0x1800#16).toNat = true := by
  decide +kernel

/-- Data RAM at an odd and an even address, both byte orders, a register, absent memory at an even address. -/
theorem test_witness_DataAccesses_places :
    placeOf State.reset (0x0801#16).toNat = .ram ∧ placeOf State.reset (0x27FF#16).toNat = .ram ∧
    ramAt State.reset 0x27FE#16 ∧ ramAt State.reset 0x0800#16 ∧ State.reset.params.byteOrder = .little ∧
    { Params.default with byteOrder := .big }.byteOrder = .big ∧
    placeOf State.reset (0x0042#16).toNat = .reg .sr ∧ placeOf State.reset (0x0085#16).toNat = .reg (.ifs 0) ∧
    placeOf State.reset (0x0080#16).toNat ≠ .ram ∧
    placeOf State.reset (0x0080#16).toNat = .reg .intcon1 ∧ placeOf State.reset (0x00DE#16).toNat = .reg (.ipc 29) ∧
    (0x0080#16).getLsbD 0 = false ∧ (0x00DE#16).getLsbD 0 = false ∧
    placeOf State.reset (0x2801#16).toNat = .absent ∧ placeOf State.reset (0x2800#16).toNat = .absent ∧
    (0x2800#16).getLsbD 0 = false := by
  unfold ramAt; decide +kernel

/-- An address formed from W15: the wrap to 0x0900 (W15 = 0xFFFE, offset 0x0902), above the limit, exactly at the
limit, below 0x0800, exactly at 0x0800. -/
theorem test_witness_DataAccesses_w15 :
    (0x0900#16 = BitVec.ofInt 16 ((sp (stackAt 0xFFFE#16 0xFFFE#16)).toNat + 0x0902) ∧
      ramAt (stackAt 0xFFFE#16 0xFFFE#16) 0x0900#16 ∧
      (0xFFFF : Int) < (sp (stackAt 0xFFFE#16 0xFFFE#16)).toNat + 0x0902) ∧
    (0x0902#16 = BitVec.ofInt 16 ((sp (stackAt 0x0900#16 0x0900#16)).toNat + 2) ∧
      ramAt (stackAt 0x0900#16 0x0900#16) 0x0902#16 ∧
      (stackAt 0x0900#16 0x0900#16).splimArmed = true ∧ (stackAt 0x0900#16 0x0900#16).splim < 0x0902#16) ∧
    (0x07FE#16 = BitVec.ofInt 16 ((sp (stackAt 0x0900#16 0x0900#16)).toNat + (-0x0102)) ∧
      ramAt (stackAt 0x0900#16 0x0900#16) 0x07FE#16 ∧ 0x07FE#16 < 0x0800#16) ∧
    (0x0900#16 = BitVec.ofInt 16 ((sp (stackAt 0x0900#16 0x0900#16)).toNat + 0) ∧
      0x0900#16 ≤ (stackAt 0x0900#16 0x0900#16).splim ∧ ramAt (stackAt 0x0900#16 0x0900#16) 0x0900#16) ∧
    (0x0800#16 = BitVec.ofInt 16 ((sp (stackAt 0x0900#16 0x0900#16)).toNat + (-0x0100)) ∧
      ramAt (stackAt 0x0900#16 0x0900#16) 0x0800#16 ∧ 0x0800#16 ≤ 0x0800#16 ∧
      ((sp (stackAt 0x0900#16 0x0900#16)).toNat + (-0x0100) : Int) ≤ 0xFFFF) := by
  unfold ramAt; decide +kernel

/-- An instruction whose second access is misaligned, with a store before it. -/
def misalignedPair : OrdInstr :=
  ⟨[.store (.abs 0x0900#16) .word (.lit 1#16), .load (.abs 0x0901#16) .word], .sequential false, 1⟩

/-- An instruction with a store and a literal target in unimplemented program memory. -/
def badBranch : OrdInstr := ⟨[.store (.abs 0x0900#16) .word (.lit 1#16)], .literal 0x00B000#23, 2⟩

/-- An error of an access; an error of a literal target. -/
theorem test_witness_AddressErrorInhibitsWrites :
    ((actAll false misalignedPair.acts State.reset).addrErr = true ∧
      misalignedPair.succ.addressError State.reset = false ∧
      (effects (misalignedPair.succ.addressError State.reset) misalignedPair.acts State.reset).reset = false) ∧
    (badBranch.succ.addressError State.reset = true ∧
      (effects (badBranch.succ.addressError State.reset) badBranch.acts State.reset).reset = false) ∧
    { State.reset with intcon1 := 0x8000#16 }.intcon1.getLsbD 15 = true := by decide +kernel

theorem test_witness_SoftwareNeverSetsIpl3 : ipl3 State.reset = false := by decide

theorem test_witness_NoOrdinaryInstructionSetsTheLatch : State.reset.disiLatch = false := by decide

/-- A step that answers a next state. -/
theorem test_witness_ProgramMemoryIsConstant : ∃ t, step atDisi = .next t := ⟨_, rfl⟩

/-- The reset causes whose clauses have a condition. -/
theorem test_witness_DeviceResetValues :
    ResetCause.trapConflict = .trapConflict ∧ ResetCause.software = .software := ⟨rfl, rfl⟩

/-- A state with the invariant and its step. -/
theorem test_witness_InvariantKept : Inv atDisi ∧ ∃ t, step atDisi = .next t := by
  refine ⟨⟨⟨?_, ?_, ?_, ?_, ?_, ?_, ?_, ?_, ?_, ?_, fun t => ?_, fun t => ?_, ?_⟩, ?_⟩, _, rfl⟩
  case refine_11 => cases t <;> decide +kernel
  case refine_12 => cases t <;> decide +kernel
  case refine_14 => exact ⟨rfl, rfl, rfl, rfl⟩
  all_goals decide +kernel

end Sys2Proof.Tests
end

/-! PROOFS. The CPU priority level as a number, what `Select()` can return, and that no interrupt is ready while
IPL3 is 1 (10_state.md R32, R33; 60_exceptions.md R239, R240, R242). -/

namespace Sys2Proof.Machine

/-! ### The CPU priority level -/

/-- IPL3 is the bit of weight 8 above IPL<2:0> (10 R33). -/
theorem toNat_cpuIpl (s : State) : (cpuIpl s).toNat = (if ipl3 s then 8 else 0) + (ipl s).toNat := by
  have hipl : (ipl s).toNat < 2 ^ 3 := (ipl s).isLt
  rw [cpuIpl, BitVec.toNat_append, ← Nat.shiftLeft_add_eq_or_of_lt hipl, Nat.shiftLeft_eq]
  cases ipl3 s <;> rfl

theorem eight_le_cpuIpl {s : State} (h : ipl3 s = true) : 8 ≤ (cpuIpl s).toNat := by
  simp [toNat_cpuIpl, h]

/-! ### Arbitration -/

/-- The winner of the arbitration is ready (60 R240). -/
theorem intReady_of_winner {s : State} {q : Source} (h : winner s = some q) : intReady s q = true :=
  (bestOf_some (List.pairwise_lt_finRange 118) h).2.1

/-- What `Select()` can return: the ready trap of greatest level or, without one, the winning interrupt (60 R242). -/
theorem select_cases {s : State} {e : Selected} (h : select s = some e) :
    (∃ t, readyTrap s = some t ∧ e = ⟨t.vector, t.level, .trap⟩) ∨
    (∃ q, readyTrap s = none ∧ winner s = some q ∧
      e = ⟨Source.vector q, (priorityOf s q).setWidth 4, .interrupt⟩) := by
  unfold select at h
  cases htrap : readyTrap s with
  | some t =>
    rw [htrap] at h
    exact .inl ⟨t, rfl, (Option.some.inj h).symm⟩
  | none =>
    cases hint : winner s with
    | some q =>
      rw [htrap, hint] at h
      exact .inr ⟨q, rfl, rfl, (Option.some.inj h).symm⟩
    | none =>
      rw [htrap, hint] at h
      cases h

/-- A ready interrupt lies strictly above the CPU priority (60 R239). -/
theorem cpuIpl_lt_priority_of_intReady {s : State} {q : Source} (h : intReady s q = true) :
    (cpuIpl s).toNat < (priorityOf s q).toNat := by
  simp only [intReady, Bool.and_eq_true, decide_eq_true_eq] at h
  obtain ⟨⟨-, hlt⟩, -⟩ := h
  rwa [BitVec.lt_def, BitVec.toNat_setWidth_of_le (by decide)] at hlt

/-- The level of a source is at most 7, so with IPL3 = 1 none is ready (10 R33). -/
theorem intReady_of_ipl3 {s : State} (h : ipl3 s = true) (q : Source) : intReady s q = false := by
  rw [Bool.eq_false_iff]
  intro hready
  have hlt := cpuIpl_lt_priority_of_intReady hready
  have hcpu := eight_le_cpuIpl h
  have hprio := (priorityOf s q).isLt
  omega

/-! ### The statement -/

/-- Settles O32: the number is `toNat_cpuIpl`; with IPL3 = 1 no interrupt is ready, so what is selected is a trap. -/
theorem cpuPriorityLevel : Obligations.CpuPriorityLevel := by
  refine ⟨toNat_cpuIpl, by decide, fun s e hipl3 hsel => ?_⟩
  rcases select_cases hsel with ⟨t, -, rfl⟩ | ⟨q, -, hwin, -⟩
  · rfl
  · have hready := intReady_of_winner hwin
    rw [intReady_of_ipl3 hipl3 q] at hready
    cases hready

end Sys2Proof.Machine

/-! PROOFS. INTCON2 as software reads and writes it (10_state.md section 8, R40 to R43). -/

namespace Sys2Proof.Machine

/-- Bit 14 of INTCON2 reads the DISI latch (10 R42). -/
theorem readReg_intcon2_disi (s : State) : (readReg .intcon2 s).getLsbD 14 = s.disiLatch := by
  simp only [readReg, getLsbD_putBit, true_and, Nat.reduceLT, if_true]

/-- Every other bit of INTCON2 reads what is stored, where it is implemented (10 R40). -/
theorem readReg_intcon2_bit (s : State) {i : Nat} (hi : i ≠ 14) :
    (readReg .intcon2 s).getLsbD i = (s.intcon2.getLsbD i && (0x801F#16).getLsbD i) := by
  simp [readReg, getLsbD_putBit, Ne.symm hi]

/-- A software write of INTCON2 stores ALTIVT and the edge bits (10 R40). -/
@[simp] theorem swWrite_intcon2_intcon2 (v : Word) (s : State) :
    (swWrite .intcon2 v s).intcon2 = v &&& 0x801F#16 := rfl

@[simp] theorem swWrite_intcon2_disiLatch (v : Word) (s : State) :
    (swWrite .intcon2 v s).disiLatch = s.disiLatch := rfl

/-- INTCON2 is the only field its software write changes. -/
theorem swWrite_intcon2_frame (v : Word) (s : State) :
    { swWrite .intcon2 v s with intcon2 := s.intcon2 } = s := rfl

/-- What INTCON2 reads after a software write, but for bit 14: the implemented bits of the word written. -/
theorem readReg_swWrite_intcon2_bit (v : Word) (s : State) {i : Nat} (hi : i ≠ 14) :
    (readReg .intcon2 (swWrite .intcon2 v s)).getLsbD i = (v.getLsbD i && (0x801F#16).getLsbD i) := by
  rw [readReg_intcon2_bit _ hi, swWrite_intcon2_intcon2, ← BitVec.getLsbD_and, intcon2Written_implemented,
    BitVec.getLsbD_and]

theorem readReg_swWrite_intcon2_edgeBits (v : Word) (s : State) :
    (readReg .intcon2 (swWrite .intcon2 v s)).extractLsb' 0 5 = v.extractLsb' 0 5 := by
  have edgeBits : ∀ i < 5, (0x801F#16).getLsbD (0 + i) = true := by decide
  apply BitVec.eq_of_getLsbD_eq
  intro i hi
  rw [BitVec.getLsbD_extractLsb', BitVec.getLsbD_extractLsb', readReg_swWrite_intcon2_bit v s (by omega),
    edgeBits i hi, Bool.and_true]

/-- Bits 13:5 of INTCON2 are not implemented (10 R40). -/
theorem readReg_swWrite_intcon2_unimplemented (v : Word) (s : State) :
    (readReg .intcon2 (swWrite .intcon2 v s)).extractLsb' 5 9 = 0#9 := by
  have absentBits : ∀ i < 9, (0x801F#16).getLsbD (5 + i) = false := by decide
  apply BitVec.eq_of_getLsbD_eq
  intro i hi
  rw [BitVec.getLsbD_extractLsb', readReg_swWrite_intcon2_bit v s (by omega), absentBits i hi, Bool.and_false,
    Bool.and_false, BitVec.getLsbD_zero]

theorem altivt_swWrite_intcon2 (v : Word) (s : State) : altivt (swWrite .intcon2 v s) = v.getLsbD 15 := by
  simp [altivt]

theorem edgeNegative_swWrite_intcon2 (v : Word) (s : State) (n : Fin 5) :
    edgeNegative (swWrite .intcon2 v s) n = v.getLsbD n.val := by
  have edgeBits : ∀ n : Fin 5, (0x801F#16).getLsbD n.val = true := by decide
  rw [edgeNegative, swWrite_intcon2_intcon2, BitVec.getLsbD_and, edgeBits, Bool.and_true]

/-- `DISI` masks a source only while its latch is 1 (60 R241). -/
theorem disiLatch_of_maskedByDisi {s : State} {q : Source} (h : maskedByDisi s q = true) : s.disiLatch = true := by
  rw [maskedByDisi, Bool.and_eq_true] at h
  exact h.1

/-- Settles O48, from what INTCON2 reads before and after the write, and the frame of the write. -/
theorem writeIntcon2 : Obligations.WriteIntcon2 := by
  intro v s
  have hbit15 : (readReg .intcon2 (swWrite .intcon2 v s)).getLsbD 15 = v.getLsbD 15 := by
    rw [readReg_swWrite_intcon2_bit v s (by decide)]
    exact Bool.and_true _
  exact ⟨readReg_intcon2_disi s, by simp only [readReg_intcon2_disi, swWrite_intcon2_disiLatch],
    swWrite_intcon2_disiLatch v s, fun q hq => (readReg_intcon2_disi s).trans (disiLatch_of_maskedByDisi hq),
    altivt_swWrite_intcon2 v s, edgeNegative_swWrite_intcon2 v s, hbit15, readReg_swWrite_intcon2_edgeBits v s,
    readReg_swWrite_intcon2_unimplemented v s, swWrite_intcon2_frame v s⟩

end Sys2Proof.Machine

/-! PROOFS. Priority level 0 disables a source (11_interrupt_source_registers.md R78; 60_exceptions.md R239, R262). -/

namespace Sys2Proof.Machine

/-- No level lies strictly below 0, so a source of level 0 is never above the CPU priority (60 R239). -/
theorem intReady_of_priority_zero {s : State} {q : Source} (h : priorityOf s q = 0#3) : intReady s q = false := by
  rw [Bool.eq_false_iff]
  intro hready
  have hlt := cpuIpl_lt_priority_of_intReady hready
  rw [h] at hlt
  exact Nat.not_lt_zero _ hlt

/-- The CPU stays asleep exactly when every requested source has level 0 (60 R262). -/
theorem wake_eq_false_iff {s : State} :
    wake s = false ↔ ∀ q : Source, intReq s q = true → priorityOf s q = 0#3 := by
  simp [wake]

/-- Settles O30: a requested source that could wake the CPU is either `q`, of level 0, or another one, and no other
is requested. -/
theorem levelZeroIsDisabled : Obligations.LevelZeroIsDisabled := by
  refine fun s q hzero => ⟨intReady_of_priority_zero hzero, flagOf_setFlag_self, fun hothers => ?_⟩
  rw [wake_eq_false_iff]
  intro r hreq
  by_cases hr : r = q
  · rw [hr, hzero]
  · rw [hothers r hr] at hreq
    cases hreq

end Sys2Proof.Machine

/-! PROOFS. Two soft traps from their events: a DMA write collision and a divide by zero
(41_trap_raising_instructions.md R200, R206). -/

namespace Sys2Proof.Machine

/-! ### A DMA write collision -/

/-- A raise of the DMA error touches no skid but its own, pending before or not (60 R225). -/
theorem raiseSoft_dmac_frame (s : State) :
    { raiseSoft .dmacErr s with intcon1 := s.intcon1, skidDmac := s.skidDmac, draws := s.draws } = s := by
  by_cases hpending : trapPending .dmacErr s = true
  · rw [raiseSoft_of_pending hpending]
  · rw [raiseSoft, if_neg hpending]
    rfl

/-- The bytes of data RAM are none of what the raise of a soft trap writes. -/
theorem ramByte_raiseSoft (t : Trap) (s : State) (a : Nat) : ramByte (raiseSoft t s) a = ramByte s a :=
  ramByte_congr (raiseSoft_mem t s) (raiseSoft_ramEpoch t s) a

/-- Hardware raises the DMA error on a collision (41 R206). -/
theorem deliver_dmaCollision (s : State) : deliver .dmaCollision s = raiseSoft .dmacErr s := rfl

/-- Settles O38: the collision is the raise of the DMA error, whose status bit is bit 5. -/
theorem dmaWriteCollision : Obligations.DmaWriteCollision := by
  intro s
  rw [deliver_dmaCollision]
  exact ⟨⟨rfl, rfl, rfl⟩, raiseSoft_intcon1 .dmacErr s, ramByte_raiseSoft .dmacErr s, raiseSoft_dmac_frame s⟩

/-! ### Divide by zero -/

/-- A divide by zero raises the math error with the detail bit DIV0ERR, after the draw that every action makes
(41 R200; log 3). -/
theorem act_divideByZero (inhibit : Bool) (s : State) :
    act inhibit .divideByZero s = Run.ok (raiseMath 6 (countDraw s)) := rfl

/-- A math error raised by an action leaves all but INTCON1, its skid and the counter of free values: the draw of
the action is in that counter too. -/
theorem raiseMath_countDraw_frame (detail : Nat) (s : State) :
    { raiseMath detail (countDraw s) with intcon1 := s.intcon1, skidMath := s.skidMath, draws := s.draws } = s :=
  congrArg (fun t : State => { t with draws := s.draws }) (raiseMath_frame detail (countDraw s))

/-- Settles O39: no enable is asked, so INTCON1 is that of the raise on every state. -/
theorem divideByZero : Obligations.DivideByZero := by
  intro inhibit s
  rw [act_divideByZero]
  exact ⟨raiseMath_intcon1 6 (countDraw s), rfl, raiseMath_countDraw_frame 6 s⟩

end Sys2Proof.Machine

/-! PROOFS. Who wins the arbitration, what `Select()` returns, and what the DISI latch masks
(60_exceptions.md R231, R239 to R242). -/

namespace Sys2Proof.Machine

/-! ### The winner of the arbitration -/

/-- The order of the arbitration: `q` has the greater priority, or the same and no greater number (60 R240). -/
def Precedes (s : State) (q r : Source) : Prop :=
  priorityOf s r < priorityOf s q ∨ (priorityOf s r = priorityOf s q ∧ q ≤ r)

/-- Priority, then number, orders the sources without ties (60 R240). -/
theorem Precedes.antisymm {s : State} {q r : Source} (hqr : Precedes s q r) (hrq : Precedes s r q) : q = r := by
  rcases hqr with hlt | ⟨heq, hle⟩ <;> rcases hrq with hlt' | ⟨heq', hle'⟩
  · exact absurd hlt' (BitVec.not_lt.mpr (BitVec.le_of_lt hlt))
  · exact absurd (heq' ▸ hlt) (BitVec.lt_irrefl _)
  · exact absurd (heq ▸ hlt') (BitVec.lt_irrefl _)
  · exact le_antisymm hle hle'

theorem precedes_of_winner {s : State} {q r : Source} (h : winner s = some q) (hr : intReady s r = true) :
    Precedes s q r := by
  obtain ⟨-, -, hbest⟩ := bestOf_some (List.pairwise_lt_finRange 118) h
  exact hbest r (List.mem_finRange r) hr

theorem winner_eq_none_iff {s : State} : winner s = none ↔ ∀ q : Source, intReady s q = false := by
  refine ⟨fun h q => bestOf_none h q (List.mem_finRange q), fun hnone => ?_⟩
  rw [Option.eq_none_iff_forall_ne_some]
  intro q hwin
  exact absurd (intReady_of_winner hwin) (Bool.eq_false_iff.mp (hnone q))

/-- A ready source makes the arbitration answer some winner; it and a source that precedes every ready one precede
each other. -/
theorem winner_eq_some_iff {s : State} {q : Source} :
    winner s = some q ↔ intReady s q = true ∧ ∀ r : Source, intReady s r = true → Precedes s q r := by
  refine ⟨fun h => ⟨intReady_of_winner h, fun _ => precedes_of_winner h⟩, fun ⟨hready, hfirst⟩ => ?_⟩
  cases hwin : winner s with
  | none => exact absurd hready (Bool.eq_false_iff.mp (winner_eq_none_iff.mp hwin q))
  | some w =>
    have hwq : Precedes s w q := precedes_of_winner hwin hready
    have hqw : Precedes s q w := hfirst w (intReady_of_winner hwin)
    rw [hwq.antisymm hqw]

/-- Settles O28: the winner is the one source that precedes every ready source. -/
theorem winnerOfArbitration : Obligations.WinnerOfArbitration :=
  fun _ => ⟨fun _ => winner_eq_some_iff, winner_eq_none_iff⟩

/-! ### `Select()` -/

theorem mem_allTraps (t : Trap) : t ∈ allTraps := by cases t <;> decide

/-- The traps are searched from the greatest level down (60 R231). -/
theorem pairwise_level_allTraps : allTraps.Pairwise fun t u => u.level < t.level := by decide

theorem readyTrap_eq_none_iff {s : State} : readyTrap s = none ↔ ∀ t : Trap, trapReady t s = false := by
  simp [readyTrap, mem_allTraps]

theorem trapReady_of_readyTrap {s : State} {t : Trap} (h : readyTrap s = some t) : trapReady t s = true :=
  List.find?_some (p := fun u => trapReady u s) h

/-- Every other ready trap has a smaller level than the one found: those before it in the search are not ready, and
those after it have smaller levels (60 R231). -/
theorem eq_or_level_lt_of_readyTrap {s : State} {t u : Trap} (h : readyTrap s = some t)
    (hu : trapReady u s = true) : u = t ∨ u.level < t.level := by
  obtain ⟨-, before, after, hsplit, hbefore⟩ := List.find?_eq_some_iff_append.mp h
  have hsorted := pairwise_level_allTraps
  rw [hsplit, List.pairwise_append, List.pairwise_cons] at hsorted
  obtain ⟨-, ⟨hafter, -⟩, -⟩ := hsorted
  have hmem := mem_allTraps u
  rw [hsplit, List.mem_append, List.mem_cons] at hmem
  rcases hmem with hin | heq | hin
  · have hnot := hbefore u hin
    rw [hu] at hnot
    cases hnot
  · exact .inl heq
  · exact .inr (hafter u hin)

/-- A ready trap that no ready trap exceeds is the one found, which would otherwise exceed it. -/
theorem readyTrap_of_greatest {s : State} {t : Trap} (hready : trapReady t s = true)
    (hgreatest : ∀ u : Trap, trapReady u s = true → u.level ≤ t.level) : readyTrap s = some t := by
  cases hfound : readyTrap s with
  | none => exact absurd hready (Bool.eq_false_iff.mp (readyTrap_eq_none_iff.mp hfound t))
  | some u =>
    rcases eq_or_level_lt_of_readyTrap hfound hready with rfl | hlt
    · rfl
    · exact absurd hlt (BitVec.not_lt.mpr (hgreatest u (trapReady_of_readyTrap hfound)))

theorem select_of_readyTrap {s : State} {t : Trap} (h : readyTrap s = some t) :
    select s = some ⟨t.vector, t.level, .trap⟩ := by
  simp [select, h]

theorem select_of_winner {s : State} {q : Source} (htrap : readyTrap s = none) (hwin : winner s = some q) :
    select s = some ⟨Source.vector q, (priorityOf s q).setWidth 4, .interrupt⟩ := by
  simp [select, htrap, hwin]

theorem select_eq_none {s : State} (htrap : readyTrap s = none) (hwin : winner s = none) : select s = none := by
  simp [select, htrap, hwin]

/-- The vector numbers of the interrupts follow the eight of the traps (60 R223). -/
theorem Source.vector_eq (q : Source) : Source.vector q = 8 + q.val := Nat.add_comm q.val 8

/-- Settles O29, one equation of `Select()` for each clause. -/
theorem selectTakesTrapsFirst : Obligations.SelectTakesTrapsFirst := by
  refine fun s => ⟨fun t hready hgreatest => ?_, fun hnoTrap q hwin => ?_, fun hnoTrap hnoInt => ?_⟩
  · exact select_of_readyTrap (readyTrap_of_greatest hready hgreatest)
  · rw [← Source.vector_eq]
    exact select_of_winner (readyTrap_eq_none_iff.mpr hnoTrap) hwin
  · exact select_eq_none (readyTrap_eq_none_iff.mpr hnoTrap) (winner_eq_none_iff.mpr hnoInt)

/-! ### What the DISI latch masks -/

theorem maskedByDisi_eq_true_iff {s : State} {q : Source} :
    maskedByDisi s q = true ↔ s.disiLatch = true ∧ priorityOf s q ≤ 6#3 := by
  simp [maskedByDisi]

theorem intReady_of_masked {s : State} {q : Source} (h : maskedByDisi s q = true) : intReady s q = false := by
  simp [intReady, h]

/-- Unmasked, a source is ready as its request and the CPU priority say (60 R239). -/
theorem intReady_of_not_masked {s : State} {q : Source} (h : maskedByDisi s q = false) :
    intReady s q = (intReq s q && decide (cpuIpl s < (priorityOf s q).setWidth 4)) := by
  simp [intReady, h]

theorem not_masked_of_latch_clear {s : State} (h : s.disiLatch = false) (q : Source) : maskedByDisi s q = false := by
  simp [maskedByDisi, h]

/-- Level 7 lies above every level `DISI` masks (60 R241). -/
theorem not_masked_of_priority_seven {s : State} {q : Source} (h : priorityOf s q = 7#3) :
    maskedByDisi s q = false := by
  rw [Bool.eq_false_iff, ne_eq, maskedByDisi_eq_true_iff, h]
  exact fun ⟨_, hle⟩ => absurd hle (by decide)

/-- The latch is not asked for a trap (60 R227, R241). -/
theorem trapReady_setLatch (latch : Bool) (t : Trap) (s : State) :
    trapReady t { s with disiLatch := latch } = trapReady t s := by cases t <;> rfl

/-- Unmasked in the state whose latch is set, a source is ready there exactly when its request and level say: the
flags, the enables, the levels and the CPU priority are those of `s`. -/
theorem intReady_setLatch_of_not_masked {latch : Bool} {s : State} {q : Source}
    (h : maskedByDisi { s with disiLatch := latch } q = false) :
    intReady { s with disiLatch := latch } q =
      (intReq s q && decide (cpuIpl s < (priorityOf s q).setWidth 4)) :=
  intReady_of_not_masked h

/-- Settles O31: the latch enters only through the mask, which is off at level 7 and while the latch is clear. -/
theorem disiMasksLevelsOneToSix : Obligations.DisiMasksLevelsOneToSix := by
  refine fun s q => ⟨fun hle => ⟨?_, rfl⟩, fun hreq hlt => ?_, fun hseven => ?_, fun t => ?_⟩
  · exact intReady_of_masked (maskedByDisi_eq_true_iff.mpr ⟨rfl, hle⟩)
  · rw [intReady_setLatch_of_not_masked (not_masked_of_latch_clear rfl q), hreq, decide_eq_true hlt, Bool.and_self]
  · have hunmasked (latch : Bool) : maskedByDisi { s with disiLatch := latch } q = false :=
      not_masked_of_priority_seven hseven
    rw [intReady_setLatch_of_not_masked (hunmasked true), intReady_setLatch_of_not_masked (hunmasked false)]
  · exact (trapReady_setLatch true t s).trans (trapReady_setLatch false t s).symm

end Sys2Proof.Machine

/-! PROOFS. The decoder: one equation for each row of the opcode table and for every other word, the round trip
through the encoder, and the instruction programmed at the PC (30_encoding.md R152 to R156). -/

namespace Sys2Proof

/-! ### The rows of the opcode table -/

/-- A word that matches a row does not match another row whose match disagrees with it on a bit both masks hold. -/
theorem no_match_of_match {w m v m' v' : PWord} (h : w &&& m = v) (hne : v &&& m' ≠ v' &&& m) :
    (w &&& m' == v') = false := by
  rw [beq_eq_false_iff_ne]
  rintro rfl
  apply hne
  rw [← h, BitVec.and_assoc, BitVec.and_assoc, BitVec.and_comm m m']

/-- A word that matches a row is no word that does not match it. -/
theorem ne_of_match {w m v x : PWord} (h : w &&& m = v) (hne : x &&& m ≠ v) : (w == x) = false := by
  rw [beq_eq_false_iff_ne]
  rintro rfl
  exact hne h

theorem and_fullMask (w : PWord) : w &&& 0xFFFFFF#24 = w := BitVec.and_allOnes

theorem decode_disi {w : PWord} (h : w &&& 0xFFC000#24 = 0xFC0000#24) (rest : List PWord) :
    decode (w :: rest) = .ok (.disi (w.extractLsb' 0 14)) := by
  simp [decode, h]

theorem decode_retfie (rest : List PWord) : decode (0x064000#24 :: rest) = .ok .retfie := rfl

theorem decode_pwrsav {w : PWord} (h : w &&& 0xFFFFFE#24 = 0xFE4000#24) (rest : List PWord) :
    decode (w :: rest) = .ok (.pwrsav (w.extractLsb' 0 1)) := by
  have notDisi : (w &&& 0xFFC000#24 == 0xFC0000#24) = false := no_match_of_match h (by decide)
  have notRetfie : (w == 0x064000#24) = false := ne_of_match h (by decide)
  simp only [decode, notDisi, notRetfie, h, beq_self_eq_true, if_true, if_false, Bool.false_eq_true]

theorem decode_reset (rest : List PWord) : decode (0xFE0000#24 :: rest) = .ok .reset := rfl

/-- A first word of `GOTO` leaves the answer to the second word (93 row 20). -/
theorem decode_goto {w : PWord} (h : w &&& 0xFF0001#24 = 0x040000#24) (second : PWord) (rest : List PWord) :
    decode (w :: second :: rest) =
      if gotoSecondOk second then .ok (.goto (gotoTarget w second)) else .error (.gotoSecondWord second) := by
  have notDisi : (w &&& 0xFFC000#24 == 0xFC0000#24) = false := no_match_of_match h (by decide)
  have notRetfie : (w == 0x064000#24) = false := ne_of_match h (by decide)
  have notPwrsav : (w &&& 0xFFFFFE#24 == 0xFE4000#24) = false := no_match_of_match h (by decide)
  have notReset : (w == 0xFE0000#24) = false := ne_of_match h (by decide)
  simp only [decode, notDisi, notRetfie, notPwrsav, notReset, h, beq_self_eq_true, if_true, if_false,
    Bool.false_eq_true]

/-- A word of no row is refused by name (30 R156). -/
theorem decode_unknown {w : PWord} (h : ∀ r ∈ opcodeRows, r.fits w = false) (rest : List PWord) :
    decode (w :: rest) = .error (.unknownWord w) := by
  simp only [opcodeRows, List.forall_mem_cons, OpcodeRow.fits, and_fullMask] at h
  obtain ⟨notDisi, notRetfie, notPwrsav, notReset, notGoto, -⟩ := h
  simp only [decode, notDisi, notRetfie, notPwrsav, notReset, notGoto, if_false, Bool.false_eq_true]

/-! ### The fields of an encoding -/

theorem disi_literal (lit14 : BitVec 14) : (0b1111110000#10 ++ lit14).extractLsb' 0 14 = lit14 := by
  apply BitVec.eq_of_getLsbD_eq
  intro i hi
  simp only [BitVec.getLsbD_extractLsb', Nat.zero_add, hi, decide_true, Bool.true_and, BitVec.getLsbD_append, if_true]

theorem gotoSecondOk_encode (target : PAddr) : gotoSecondOk (0#17 ++ target.extractLsb' 16 7) = true := by
  rw [gotoSecondOk, beq_iff_eq]
  apply BitVec.eq_of_getLsbD_eq
  intro i hi
  rw [BitVec.getLsbD_and, BitVec.getLsbD_append]
  interval_cases i <;> simp

/-- The two words of a `GOTO` hold its target but for bit 0, which an even target has at 0 (30 R154). -/
theorem gotoTarget_encode {target : PAddr} (h : target.getLsbD 0 = false) :
    gotoTarget (0x04#8 ++ (target.extractLsb' 1 15 ++ 0#1)) (0#17 ++ target.extractLsb' 16 7) = target := by
  have hbit : target[0] = false := h
  apply BitVec.eq_of_getLsbD_eq
  intro i hi
  simp only [gotoTarget, BitVec.getLsbD_append, BitVec.getLsbD_extractLsb']
  interval_cases i <;> simp [hbit]

/-- The target as the table writes it, its three parts joined from the left (30 R154). -/
theorem gotoTarget_eq (first second : PWord) :
    gotoTarget first second = second.extractLsb' 0 7 ++ first.extractLsb' 1 15 ++ 0#1 := by
  rw [gotoTarget, BitVec.append_assoc, BitVec.cast_eq]

/-! ### The statements -/

/-- Settles O3, by cases on the instruction: its first word matches its row, and its fields are its operands. -/
theorem decodeOfEncode : Obligations.DecodeOfEncode := by
  intro i rest hwf
  cases i with
  | disi lit14 =>
    refine (decode_disi (Laws.Fits.disi_mask lit14) rest).trans ?_
    rw [disi_literal]
  | retfie => exact decode_retfie rest
  | pwrsav lit1 =>
    have hbit : lit1 = 0#1 ∨ lit1 = 1#1 := by revert lit1; decide
    rcases hbit with rfl | rfl <;> exact decode_pwrsav (by decide) rest
  | reset => exact decode_reset rest
  | goto target =>
    have heven : target.getLsbD 0 = false := by simpa [Instr.wf] using hwf
    refine (decode_goto (Laws.Fits.goto_mask target) _ rest).trans ?_
    rw [gotoSecondOk_encode, if_pos rfl, gotoTarget_encode heven]

/-- Settles O2, one row after the other. -/
theorem decodeFollowsTheTable : Obligations.DecodeFollowsTheTable := by
  refine fun w second rest => ⟨fun h => decode_disi h rest, fun h => ?_, fun h => decode_pwrsav h rest, fun h => ?_,
    fun h => ⟨fun hok => ?_, fun hbad => ?_⟩, fun h => decode_unknown h rest⟩
  · rw [and_fullMask] at h
    rw [h, decode_retfie]
  · rw [and_fullMask] at h
    rw [h, decode_reset]
  · rw [decode_goto h, gotoSecondOk, if_pos (beq_iff_eq.mpr hok), gotoTarget_eq]
  · rw [decode_goto h, gotoSecondOk, if_neg (mt beq_iff_eq.mp hbad)]

/-- Settles O1 by running the decoder on the listed words. -/
theorem decodesTheSpecsWords : Obligations.DecodesTheSpecsWords := by
  refine ⟨?_, ?_, ?_, ?_, ?_, ?_, ?_, ?_, ?_, ?_, ?_, ?_⟩ <;> rfl

end Sys2Proof

namespace Sys2Proof.Machine

/-! ### The instruction at the PC -/

theorem toNat_pcPlus {a : PAddr} {n : Nat} (h : a.toNat + n < 2 ^ 23) : (pcPlus a n).toNat = a.toNat + n := by
  rw [pcPlus, if_pos h, BitVec.toNat_add, BitVec.toNat_ofNat, Nat.add_mod_mod, Nat.mod_eq_of_lt h]

/-- A word of program memory just programmed. -/
theorem progRead24_store_same (s : State) (a : Nat) (w : PWord) :
    progRead24 { s with prog := Memory.store s.prog a w } a = w := by
  simp [progRead24]

/-- Any other word of program memory. -/
theorem progRead24_store_other (s : State) {a b : Nat} (w : PWord) (h : b ≠ a) :
    progRead24 { s with prog := Memory.store s.prog a w } b = progRead24 s b := by
  simp [progRead24, Memory.lookup_store_other w h]

/-- Settles O4: the word at the PC was programmed before the one after it, which lies at another address. -/
theorem programmedWordIsDecoded : Obligations.ProgrammedWordIsDecoded := by
  intro s nbits w htop _ hnext
  obtain ⟨first, second, hwords⟩ : ∃ first second, tableWords nbits w = [first, second] := ⟨_, _, rfl⟩
  have hplus : (pcPlus (curPc s) 2).toNat = (curPc s).toNat + 2 := toNat_pcPlus htop
  have hprog : s.withFetchWord nbits w =
      { s with prog := Memory.store (Memory.store s.prog (curPc s).toNat first) ((curPc s).toNat + 2) second } := by
    simp only [State.withFetchWord, programAtPc, hwords, hplus]
  refine ⟨?_, rfl⟩
  have hpc : curPc (s.withFetchWord nbits w) = curPc s := rfl
  have himpl : progImplemented (s.withFetchWord nbits w) ((curPc s).toNat + 2) = true := hnext
  have hfirst : fetchWord (s.withFetchWord nbits w) = first := by
    rw [fetchWord, hpc, hprog]
    exact (progRead24_store_other { s with prog := Memory.store s.prog (curPc s).toNat first } second (by omega)).trans
      (progRead24_store_same s _ first)
  have hsecond : fetchSecond (s.withFetchWord nbits w) = second := by
    simp only [fetchSecond, hpc, hplus, himpl, if_true]
    rw [hprog]
    exact progRead24_store_same { s with prog := Memory.store s.prog (curPc s).toNat first } _ second
  rw [decodeAtPc, hfirst, hsecond, hwords]

end Sys2Proof.Machine

/-! PROOFS. The step, said once: what a boundary, an instruction and the end of a step can do, and from that the
statements about the step, the invariant and program memory (60_exceptions.md R262 to R265). -/

namespace Sys2Proof.Machine

/-! ### What an instruction can do -/

theorem runInstruction_of_ok {s : State} {i : Instr} (h : decodeAtPc s = .ok i) :
    runInstruction s = runDecoded i s := by
  simp only [runInstruction, h]

theorem runInstruction_of_nop {s : State} {w : PWord} (h : decodeAtPc s = .error (.unknownWord w))
    (hw : executesAsNop w = true) : runInstruction s = .next (runNop s) := by
  simp only [runInstruction, h, hw, if_true]

theorem runInstruction_of_unknown {s : State} {w : PWord} (h : decodeAtPc s = .error (.unknownWord w))
    (hw : executesAsNop w = false) : runInstruction s = runEnvironment s := by
  simp only [runInstruction, h, hw, if_false, Bool.false_eq_true]

theorem runInstruction_of_gotoSecondWord {s : State} {w : PWord} (h : decodeAtPc s = .error (.gotoSecondWord w)) :
    runInstruction s = .refused (.gotoSecondWord w) := by
  simp only [runInstruction, h]

theorem runEnvironment_of_nil {s : State} (h : s.ordinary = []) :
    runEnvironment s = .refused (.outsideTable (fetchWord s)) := by
  simp only [runEnvironment, h]

theorem runEnvironment_of_cons {s : State} {o : OrdInstr} {rest : List OrdInstr} (h : s.ordinary = o :: rest) :
    runEnvironment s = .next (endInstruction (max 1 o.cycles) (runOrdinary o { s with ordinary := rest })) := by
  simp only [runEnvironment, h]

/-- No instruction of the table stops the machine. -/
theorem exec_completes (i : Instr) (s : State) : ∃ t, exec i s = .next t := by
  cases i <;> exact ⟨_, rfl⟩

theorem runDecoded_of_exec {i : Instr} {s u : State} (h : exec i s = .next u) :
    runDecoded i s = .next (endInstruction (instrCycles i u) u) := by
  simp only [runDecoded, h]

/-- An instruction that ends in a next state was one of the table, a `NOP` or one of the environment (60 R265). -/
theorem runInstruction_cases {s t : State} (h : runInstruction s = .next t) :
    (∃ i u, exec i s = .next u ∧ t = endInstruction (instrCycles i u) u) ∨ t = runNop s ∨
    (∃ o rest, s.ordinary = o :: rest ∧
      t = endInstruction (max 1 o.cycles) (runOrdinary o { s with ordinary := rest })) := by
  have environment : runEnvironment s = .next t → ∃ o rest, s.ordinary = o :: rest ∧
      t = endInstruction (max 1 o.cycles) (runOrdinary o { s with ordinary := rest }) := by
    intro henv
    cases hqueue : s.ordinary with
    | nil => rw [runEnvironment_of_nil hqueue] at henv; cases henv
    | cons o rest => rw [runEnvironment_of_cons hqueue] at henv; cases henv; exact ⟨o, rest, rfl, rfl⟩
  unfold runInstruction at h
  split at h
  case h_1 i _ =>
    obtain ⟨u, hexec⟩ := exec_completes i s
    rw [runDecoded_of_exec hexec] at h
    cases h
    exact .inl ⟨i, u, hexec, rfl⟩
  case h_2 => cases h
  case h_3 => exact .inr (.inr (environment h))
  case h_4 => exact .inr (.inr (environment h))
  case h_5 =>
    split at h
    · cases h
      exact .inr (.inl rfl)
    · exact .inr (.inr (environment h))

/-! ### What a boundary can do -/

/-- A boundary in Run ends with the check of the PC, with an exception taken or with an instruction (60 R265). -/
theorem runBoundary_cases {s t : State} (h : runBoundary s = .next t) :
    t = (checkFetch s).state ∨ (∃ e, t = takeStep e (checkFetch s).state) ∨
    runInstruction (checkFetch s).state = .next t := by
  unfold runBoundary at h
  dsimp only at h
  split at h
  · cases h
    exact .inl rfl
  · split at h
    · cases h
      exact .inr (.inl ⟨_, rfl⟩)
    · exact .inr (.inr h)

/-- A step that ends in a next state slept on, or ran a boundary (60 R262, R265). -/
theorem step_cases {s t : State} (h : step s = .next t) :
    t = beginStep s ∨ runBoundary { beginStep s with power := .run } = .next t := by
  unfold step atBoundary at h
  split at h
  · cases h
  · unfold wakeUp at h
    split at h
    · cases h
      exact .inl rfl
    · rename_i awake hwake
      split at hwake
      · rename_i hrun
        cases hwake
        right
        rw [← hrun]
        exact h
      · split at hwake
        · cases hwake
          exact .inr h
        · cases hwake

theorem step_of_stalled {s : State} (h : (beginStep s).stalled = true) : step s = .fault .hardTrapStall := by
  simp only [step, atBoundary, h, if_true]

/-- A sleeping machine that wakes (60 R262, R263). -/
theorem step_of_wakes {s : State} (hs : (beginStep s).stalled = false) (hp : (beginStep s).power ≠ .run)
    (hw : wakes (beginStep s) = true) : step s = runBoundary { beginStep s with power := .run } := by
  simp only [step, atBoundary, hs, wakeUp, hp, hw, if_true, if_false, Bool.false_eq_true]

/-- A sleeping machine that sleeps on (60 R262). -/
theorem step_of_asleep {s : State} (hs : (beginStep s).stalled = false) (hp : (beginStep s).power ≠ .run)
    (hw : wakes (beginStep s) = false) : step s = .next (beginStep s) := by
  simp only [step, atBoundary, hs, wakeUp, hp, hw, if_false, Bool.false_eq_true]

/-- A step with nothing to take is the instruction at the PC. -/
theorem step_of_none {s : State} (hs : (beginStep s).stalled = false) (hp : (beginStep s).power = .run)
    (hi : progImplemented (beginStep s) (curPc (beginStep s)).toNat = true) (hn : select (beginStep s) = none) :
    step s = runInstruction (beginStep s) := by
  rw [step_of_run hs hp, runBoundary_of_none hs hi hn]

/-! ### The statements about the step -/

/-- Settles O5: with nothing to take the step is the decoded instruction, run and counted. -/
theorem stepRunsTheDecodedInstruction : Obligations.StepRunsTheDecodedInstruction := by
  intro s i hs hp hi hn hd
  rw [step_of_none hs hp hi hn, runInstruction_of_ok hd]
  obtain ⟨u, hexec⟩ := exec_completes i (beginStep s)
  rw [runDecoded_of_exec hexec, hexec]

/-- Settles O7: the selected exception is what the boundary takes. -/
theorem stepTakesTheSelectedException : Obligations.StepTakesTheSelectedException := by
  intro s e hs hp hi hn
  rw [step_of_run hs hp, runBoundary_of_some hs hi hn]
  rfl

/-- Settles O10: the blocked state is asked before anything else. -/
theorem stalledMachineStops : Obligations.StalledMachineStops := fun _ => step_of_stalled

theorem executesAsNop_iff {w : PWord} : executesAsNop w = true ↔ w.extractLsb' 16 8 = 0#8 := beq_iff_eq

/-- A refusal of the decoder names the first word, which is the word at the PC. -/
theorem eq_of_decode_unknown {w x : PWord} {rest : List PWord} (h : decode (w :: rest) = .error (.unknownWord x)) :
    w = x := by
  unfold decode at h
  repeat' split at h
  all_goals cases h
  exact (List.cons.inj ‹_›).1

/-- Settles O11: with nothing to take, each answer of the decoder has its own equation. -/
theorem wordOutsideTheTable : Obligations.WordOutsideTheTable := by
  intro s w hs hp hi hn
  rw [step_of_none hs hp hi hn]
  have notNop : w.extractLsb' 16 8 ≠ 0#8 → executesAsNop w = false := fun h =>
    Bool.eq_false_iff.mpr (mt executesAsNop_iff.mp h)
  refine ⟨fun hd hw => ?_, fun hd hw hq => ?_, fun hd hw o rest hq => ?_, runInstruction_of_gotoSecondWord⟩
  · exact ⟨_, Nat.le_add_right 1 _, runInstruction_of_nop hd (executesAsNop_iff.mpr hw)⟩
  · have hword : fetchWord (beginStep s) = w := eq_of_decode_unknown hd
    rw [runInstruction_of_unknown hd (notNop hw), runEnvironment_of_nil hq, hword]
  · rw [runInstruction_of_unknown hd (notNop hw), runEnvironment_of_cons hq]

/-! ### Sleep and wake-up -/

theorem wakes_iff {s : State} :
    wakes s = true ↔ (∃ q : Source, intReq s q = true ∧ priorityOf s q ≠ 0#3) ∨
      (s.params.trapWakes = true ∧ ∃ t : Trap, trapReady t s = true) := by
  have htrap : (∃ t ∈ allTraps, trapReady t s = true) ↔ ∃ t : Trap, trapReady t s = true :=
    ⟨fun ⟨t, _, ht⟩ => ⟨t, ht⟩, fun ⟨t, ht⟩ => ⟨t, mem_allTraps t, ht⟩⟩
  simp only [wakes, wake, Bool.or_eq_true, Bool.and_eq_true, List.any_eq_true, List.mem_finRange, true_and,
    bne_iff_ne, htrap]

/-- Settles O8: the two clauses are the two values of the wake-up condition. -/
theorem sleepAndWakeUp : Obligations.SleepAndWakeUp := by
  refine fun s hs hp => ⟨fun hcond => step_of_wakes hs hp (wakes_iff.mpr hcond), fun hint htrap => ?_⟩
  refine step_of_asleep hs hp (Bool.eq_false_iff.mpr fun hw => ?_)
  rcases wakes_iff.mp hw with ⟨q, hreq, hprio⟩ | ⟨hwakes, t, hready⟩
  · exact hprio (hint q hreq)
  · rcases htrap with hno | hno
    · rw [hno] at hwakes
      cases hwakes
    · rw [hno t] at hready
      cases hready

/-! ### Completion -/

/-- The check of the PC raises nothing in implemented memory. -/
theorem checkFetch_of_implemented {s : State} (h : progImplemented s (curPc s).toNat = true) :
    checkFetch s = ⟨s, false⟩ := by
  simp only [checkFetch, h, if_true]

theorem checkFetch_of_unimplemented {s : State} (h : progImplemented s (curPc s).toNat = false) :
    checkFetch s = raiseHard .addrErr s := by
  simp only [checkFetch, h, if_false, Bool.false_eq_true]

/-- The word is an instruction of the table, executes as a `NOP`, or has an instruction of the environment. -/
def HasInstruction (s : State) : Prop :=
  (∃ i, decodeAtPc s = .ok i) ∨ (∃ w, decodeAtPc s = .error (.unknownWord w) ∧ executesAsNop w = true) ∨
  (s.ordinary ≠ [] ∧ ∀ w, decodeAtPc s ≠ .error (.gotoSecondWord w))

theorem runInstruction_completes {s : State} (h : HasInstruction s) : ∃ t, runInstruction s = .next t := by
  rcases h with ⟨i, hi⟩ | ⟨w, hw, hnop⟩ | ⟨hqueue, hgoto⟩
  · obtain ⟨u, hexec⟩ := exec_completes i s
    exact ⟨_, (runInstruction_of_ok hi).trans (runDecoded_of_exec hexec)⟩
  · exact ⟨_, runInstruction_of_nop hw hnop⟩
  · obtain ⟨o, rest, hcons⟩ := List.exists_cons_of_ne_nil hqueue
    have henv := runEnvironment_of_cons hcons
    unfold runInstruction
    split
    case h_1 i _ =>
      obtain ⟨u, hexec⟩ := exec_completes i s
      exact ⟨_, runDecoded_of_exec hexec⟩
    case h_2 w hw => exact absurd hw (hgoto w)
    case h_3 => exact ⟨_, henv⟩
    case h_4 => exact ⟨_, henv⟩
    case h_5 =>
      split
      · exact ⟨_, rfl⟩
      · exact ⟨_, henv⟩

/-- Where the check of the PC lets an instruction run, it has changed nothing. -/
theorem runBoundary_completes {s : State} (h : HasInstruction s) : ∃ t, runBoundary s = .next t := by
  unfold runBoundary
  dsimp only
  split
  · exact ⟨_, rfl⟩
  · rename_i hgoes
    simp only [Bool.or_eq_true, not_or, Bool.not_eq_true] at hgoes
    obtain ⟨hreset, hstalled⟩ := hgoes
    split
    · exact ⟨_, rfl⟩
    · rename_i hnone
      rw [checkFetch_of_implemented (implemented_of_none hreset hstalled hnone)]
      exact runInstruction_completes h

/-- Settles O12: awake or waking, the boundary completes; asleep, the step is done. -/
theorem stepCompletes : Obligations.StepCompletes := by
  intro s hs h
  unfold Completes
  by_cases hp : (beginStep s).power = .run
  · rw [step_of_run hs hp]
    exact runBoundary_completes h
  · cases hw : wakes (beginStep s) with
    | true =>
      rw [step_of_wakes hs hp hw]
      exact runBoundary_completes (s := { beginStep s with power := .run }) h
    | false => exact ⟨_, step_of_asleep hs hp hw⟩

/-! ### The invariant -/

theorem inv_runInstruction {s t : State} (hk : Kept s) (h : runInstruction s = .next t) : Inv t := by
  rcases runInstruction_cases h with ⟨i, u, hexec, rfl⟩ | rfl | ⟨o, rest, _, rfl⟩
  · exact inv_endInstruction _ (kept_exec hk hexec)
  · exact inv_runNop hk
  · exact inv_endInstruction _ (kept_closed.runOrdinary o { hk with })

theorem inv_runBoundary {s t : State} (hi : Inv s) (h : runBoundary s = .next t) : Inv t := by
  have hk : Kept (checkFetch s).state := kept_checkFetch hi.toKept
  rcases runBoundary_cases h with rfl | ⟨e, rfl⟩ | hrun
  · exact { hk with unmarked := unmarked_checkFetch hi.unmarked }
  · exact inv_takeStep e hk
  · exact inv_runInstruction hk hrun

theorem inv_beginStep {s : State} (h : Inv s) : Inv (beginStep s) :=
  { kept_beginStep h.toKept with unmarked := unmarked_beginStep s }

/-- Settles O60, by cases on what a step can do. -/
theorem invariantKept : Obligations.InvariantKept := by
  intro s t hs hstep
  have hb : Inv (beginStep s) := inv_beginStep hs
  rcases step_cases hstep with rfl | hrun
  · exact hb
  · exact inv_runBoundary (s := { beginStep s with power := .run }) { hb with } hrun

/-- Settles O59: every field is at its reset value. -/
theorem invariantAtReset : Obligations.InvariantAtReset where
  memWf := rfl
  progWf := rfl
  pcEven := rfl
  spEven := rfl
  ifsImplemented := by decide
  iecImplemented := by decide
  ipcImplemented := by decide
  intcon1Implemented := rfl
  intcon2Implemented := rfl
  corconImplemented := rfl
  skidPending := by
    intro t _
    cases t <;> rfl
  skidBound := by
    intro t
    cases t <;> exact Nat.zero_le _
  latchCounts := by decide
  unmarked := ⟨rfl, rfl, rfl, rfl⟩

end Sys2Proof.Machine

/-! PROOFS. Traps: raising them, which of them is selected, and execution from unimplemented program memory
(60_exceptions.md R221 to R231, R257, R258; 41_trap_raising_instructions.md R198, R207). -/

namespace Sys2Proof.Machine

/-! ### Hard traps -/

/-- A conflict for the address error: only the oscillator failure has a greater level (60 R257). -/
theorem hardTrapConflict_addrErr {s : State} :
    hardTrapConflict .addrErr s = true ↔ trapPending .oscFail s = true ∨ 13#4 < cpuIpl s := by
  rw [hardTrapConflict, Bool.or_eq_true, decide_eq_true_iff, or_comm]
  simp [Trap.level, allTraps]

/-- A conflict for the oscillator failure: no implemented trap has a greater level (60 R257). -/
theorem hardTrapConflict_oscFail {s : State} : hardTrapConflict .oscFail s = true ↔ 14#4 < cpuIpl s := by
  rw [hardTrapConflict, Bool.or_eq_true, decide_eq_true_iff]
  simp [Trap.level, allTraps]

/-- The reset of a hard-trap conflict (60 R257). -/
theorem raiseHard_of_conflict {t : Trap} {s : State} (h : hardTrapConflict t s = true) :
    raiseHard t s = ⟨deviceReset .trapConflict s, true⟩ := by
  simp only [raiseHard, h, if_true]

/-- Above the CPU priority and without a conflict the status bit is set (60 R225). -/
theorem raiseHard_of_free {t : Trap} {s : State} (h : hardTrapConflict t s = false) (hne : t.level ≠ cpuIpl s) :
    raiseHard t s = ⟨setIntcon1Bit t.statusBit s, false⟩ := by
  simp only [raiseHard, h, hne, if_false, Bool.false_eq_true]

/-- At the CPU priority, `HARD_TRAP_BLOCKED` = `reset` (60 R258). -/
theorem raiseHard_of_equal_reset {t : Trap} {s : State} (heq : t.level = cpuIpl s)
    (hp : s.params.hardTrapBlocked = .reset) : raiseHard t s = ⟨deviceReset .trapConflict s, true⟩ := by
  simp only [raiseHard, heq, hp, if_true, ite_self]

/-- At the CPU priority, `HARD_TRAP_BLOCKED` = `stall` (60 R258). -/
theorem raiseHard_of_equal_stall {t : Trap} {s : State} (h : hardTrapConflict t s = false) (heq : t.level = cpuIpl s)
    (hp : s.params.hardTrapBlocked = .stall) :
    raiseHard t s = ⟨{ setIntcon1Bit t.statusBit s with stalled := true }, false⟩ := by
  simp only [raiseHard, h, heq, hp, if_true, if_false, Bool.false_eq_true]

/-- A hard trap raised resets the device, or sets the status bit and at most blocks the machine. -/
theorem raiseHard_cases (t : Trap) (s : State) :
    raiseHard t s = ⟨deviceReset .trapConflict s, true⟩ ∨
    ∃ b, raiseHard t s = ⟨{ setIntcon1Bit t.statusBit s with stalled := b }, false⟩ := by
  cases hc : hardTrapConflict t s with
  | true => exact .inl (raiseHard_of_conflict hc)
  | false =>
    by_cases heq : t.level = cpuIpl s
    · cases hp : s.params.hardTrapBlocked with
      | reset => exact .inl (raiseHard_of_equal_reset heq hp)
      | stall => exact .inr ⟨true, raiseHard_of_equal_stall hc heq hp⟩
    · exact .inr ⟨s.stalled, raiseHard_of_free hc heq⟩

theorem not_conflict_addrErr {s : State} (ho : trapPending .oscFail s = false) (hc : ¬ 13#4 < cpuIpl s) :
    hardTrapConflict .addrErr s = false := by
  rw [Bool.eq_false_iff, ne_eq, hardTrapConflict_addrErr, ho]
  simpa using hc

/-- The oscillator failure below its level meets neither a conflict nor an equal level. -/
theorem raiseHard_oscFail {s : State} (h : cpuIpl s < 14#4) : raiseHard .oscFail s = ⟨setIntcon1Bit 1 s, false⟩ := by
  refine raiseHard_of_free ?_ ?_
  · rw [Bool.eq_false_iff, ne_eq, hardTrapConflict_oscFail]
    exact BitVec.not_lt.mpr (BitVec.le_of_lt h)
  · exact (BitVec.ne_of_lt h).symm

/-- Settles O35: conflict, free raise and equal level, for the address error and for the oscillator failure. -/
theorem hardTrapRaised : Obligations.HardTrapRaised := by
  refine fun s => ⟨raiseHard_addrErr_conflict, raiseHard_addrErr, fun ho heq => ?_, fun h15 => ?_, raiseHard_oscFail,
    fun heq => ?_, rfl⟩
  · have hconf : hardTrapConflict .addrErr s = false := not_conflict_addrErr ho (by rw [heq]; decide)
    cases hp : s.params.hardTrapBlocked with
    | reset => exact raiseHard_of_equal_reset heq.symm hp
    | stall => exact raiseHard_of_equal_stall hconf heq.symm hp
  · exact raiseHard_of_conflict (hardTrapConflict_oscFail.mpr (by rw [h15]; decide))
  · have hconf : hardTrapConflict .oscFail s = false := by
      rw [Bool.eq_false_iff, ne_eq, hardTrapConflict_oscFail, heq]
      decide
    cases hp : s.params.hardTrapBlocked with
    | reset => exact raiseHard_of_equal_reset heq.symm hp
    | stall => exact raiseHard_of_equal_stall hconf heq.symm hp

/-! ### Soft traps -/

theorem statusBit_injective {t u : Trap} (h : t.statusBit = u.statusBit) : t = u := by
  revert h
  cases t <;> cases u <;> decide

/-- A status bit set leaves the other traps pending or not as they were. -/
theorem trapPending_setIntcon1Bit_other {t u : Trap} (h : u ≠ t) (s : State) :
    trapPending u (setIntcon1Bit t.statusBit s) = trapPending u s := by
  simp only [trapPending, setIntcon1Bit_intcon1, getLsbD_putBit]
  rw [if_neg fun hc => h (statusBit_injective hc.1.symm)]

theorem skidLeft_congr {s t : State} (hs : t.skidStk = s.skidStk) (hm : t.skidMath = s.skidMath)
    (hd : t.skidDmac = s.skidDmac) (u : Trap) : skidLeft u t = skidLeft u s := by
  cases u <;> simp only [skidLeft, hs, hm, hd]

/-- The raise of a soft trap that was not pending, step by step (60 R225, R228). -/
theorem raiseSoft_of_not_pending {t : Trap} {s : State} (h : trapPending t s = false) :
    raiseSoft t s = countDraw (setSkid t ⟨drawnSkid s, true⟩ (setIntcon1Bit t.statusBit s)) := by
  simp only [raiseSoft, h, if_false, Bool.false_eq_true]

theorem skidLeft_raiseSoft {t : Trap} {s : State} (h : trapPending t s = false) (u : Trap) :
    skidLeft u (raiseSoft t s) = if u = t ∧ t.hard = false then drawnSkid s else skidLeft u s := by
  have hbit : skidLeft u (setIntcon1Bit t.statusBit s) = skidLeft u s := skidLeft_congr rfl rfl rfl u
  rw [raiseSoft_of_not_pending h, ← hbit, ← skidLeft_setSkid u t ⟨drawnSkid s, true⟩]
  exact skidLeft_congr rfl rfl rfl u

theorem trapPending_raiseSoft_other {t u : Trap} (hne : u ≠ t) (s : State) :
    trapPending u (raiseSoft t s) = trapPending u s := by
  rw [← trapPending_setIntcon1Bit_other hne s, trapPending, trapPending, raiseSoft_intcon1, setIntcon1Bit_intcon1]

/-- Settles O36: a pending trap is not raised again; otherwise the bit is set and the trap's own skid drawn. -/
theorem softTrapRaised : Obligations.SoftTrapRaised := by
  refine fun t s hsoft => ⟨raiseSoft_of_pending, fun hp => ⟨raiseSoft_intcon1 t s, trapPending_raiseSoft_self t s, ?_,
    fun u hne => ⟨trapPending_raiseSoft_other hne s, ?_⟩, raiseSoft_frame t s⟩⟩
  · rw [skidLeft_raiseSoft hp, if_pos ⟨rfl, hsoft⟩]
    exact drawnSkid_le s
  · rw [skidLeft_raiseSoft hp, if_neg fun hc => hne hc.1]

/-! ### Readiness -/

theorem trapReady_iff {t : Trap} {s : State} :
    trapReady t s = true ↔ trapPending t s = true ∧ cpuIpl s < t.level ∧ (t.hard = true ∨ skidLeft t s = 0) := by
  simp [trapReady, and_assoc]

/-- With IPL3 = 0 the CPU priority is at most 7 (10 R33). -/
theorem cpuIpl_lt_eight {s : State} (h : ipl3 s = false) : (cpuIpl s).toNat < 8 := by
  have hipl := (ipl s).isLt
  rw [toNat_cpuIpl, h, if_neg Bool.false_ne_true]
  omega

/-- Every trap has a level of 8 or more (60 R227). -/
theorem eight_le_level (t : Trap) : 8 ≤ t.level.toNat := by cases t <;> decide

/-- Settles O33: without IPL3 the CPU priority lies below the level of every trap. -/
theorem everyTrapIsReady : Obligations.EveryTrapIsReady := by
  refine fun t s => ⟨fun hipl3 hp hskid => trapReady_iff.mpr ⟨hp, ?_, .inr hskid⟩, fun hready => ?_⟩
  · exact Nat.lt_of_lt_of_le (cpuIpl_lt_eight hipl3) (eight_le_level t)
  · exact (trapReady_iff.mp hready).2.1

/-- Settles O34 by reading the tables off; the greatest source number is 117. -/
theorem vectorTables : Obligations.VectorTables := by
  refine ⟨fun t => ?_, fun q t => ?_⟩
  · cases t <;> rfl
  · have hq := q.isLt
    simp only [vectorAddr, Source.vector, if_true, if_false, Bool.false_eq_true, true_and]
    omega

/-! ### Which trap is selected -/

/-- A ready trap no ready trap exceeds is selected (60 R242). -/
theorem select_of_greatest {s : State} {t : Trap} (hready : trapReady t s = true)
    (hgreatest : ∀ u : Trap, trapReady u s = true → u.level ≤ t.level) :
    select s = some ⟨t.vector, t.level, .trap⟩ :=
  select_of_readyTrap (readyTrap_of_greatest hready hgreatest)

/-- The oscillator failure goes before every other exception (60 R231). -/
theorem select_oscFail {s : State} (hp : trapPending .oscFail s = true) (hc : cpuIpl s < 14#4) :
    select s = some ⟨1, 14#4, .trap⟩ :=
  select_of_greatest (t := .oscFail) (trapReady_iff.mpr ⟨hp, hc, .inl rfl⟩) fun u _ => by cases u <;> decide

/-- The address error goes before every other exception but the oscillator failure (60 R231). -/
theorem select_addrErr {s : State} (ho : trapPending .oscFail s = false) (hp : trapPending .addrErr s = true)
    (hc : cpuIpl s < 13#4) : select s = some ⟨2, 13#4, .trap⟩ := by
  refine select_of_greatest (t := .addrErr) (trapReady_iff.mpr ⟨hp, hc, .inl rfl⟩) fun u hu => ?_
  cases u with
  | oscFail =>
    rw [(trapReady_iff.mp hu).1] at ho
    cases ho
  | addrErr => decide
  | stkErr => decide
  | mathErr => decide
  | dmacErr => decide

/-- The state after an address error raised without a conflict has that trap to take. -/
theorem select_setIntcon1Bit_addrErr {s : State} (ho : trapPending .oscFail s = false) (hc : cpuIpl s < 13#4) :
    select (setIntcon1Bit 3 s) = some ⟨2, 13#4, .trap⟩ := by
  refine select_addrErr ?_ (trapPending_setIntcon1Bit_self .addrErr s) hc
  exact (trapPending_setIntcon1Bit_other (t := .addrErr) (u := .oscFail) (by decide) s).trans ho

theorem deliver_oscillatorFailure {s : State} (h : cpuIpl s < 14#4) :
    deliver .oscillatorFailure s = setIntcon1Bit 1 { s with cf := true } :=
  congrArg Flow.state (raiseHard_oscFail (s := { s with cf := true }) h)

/-- Settles O37: the event sets CF and raises the trap of the greatest level. -/
theorem oscillatorFailure : Obligations.OscillatorFailure := by
  intro s h
  rw [deliver_oscillatorFailure h]
  exact ⟨rfl, rfl, select_oscFail (trapPending_setIntcon1Bit_self .oscFail _) h, rfl⟩

/-! ### Execution from unimplemented program memory -/

/-- A boundary that the check of the PC cuts off or blocks ends there. -/
theorem runBoundary_of_cut {s u : State} {r : Bool} (hcheck : checkFetch s = ⟨u, r⟩)
    (h : r = true ∨ u.stalled = true) : runBoundary s = .next u := by
  have hcut : (r || u.stalled) = true := Bool.or_eq_true_iff.mpr h
  simp only [runBoundary, hcheck, hcut, if_true]

/-- A boundary whose check of the PC raises a trap that is then selected takes it. -/
theorem runBoundary_of_raised {s u : State} {e : Selected} (hcheck : checkFetch s = ⟨u, false⟩)
    (hs : u.stalled = false) (he : select u = some e) : runBoundary s = .next (takeStep e u) := by
  simp only [runBoundary, hcheck, hs, he, Bool.or_self, if_false, Bool.false_eq_true]

/-- Settles O9: the check of the PC is the raise of the address error, with its three outcomes. -/
theorem unimplementedPcTakesTheAddressError : Obligations.UnimplementedPcTakesTheAddressError := by
  intro s hs hp hunimplemented
  have hcheck := checkFetch_of_unimplemented hunimplemented
  rw [step_of_run hs hp]
  generalize beginStep s = s at *
  refine ⟨fun ho hc => ?_, fun hconf => ?_, fun ho heq => ?_⟩
  · rw [raiseHard_addrErr ho hc] at hcheck
    have htaken := runBoundary_of_raised hcheck hs (select_setIntcon1Bit_addrErr ho hc)
    exact htaken
  · rw [raiseHard_addrErr_conflict hconf] at hcheck
    exact runBoundary_of_cut hcheck (.inl rfl)
  · have hconf : hardTrapConflict .addrErr s = false := not_conflict_addrErr ho (by rw [heq]; decide)
    have hlevel : Trap.addrErr.level = cpuIpl s := heq.symm
    cases hb : s.params.hardTrapBlocked with
    | reset =>
      rw [raiseHard_of_equal_reset hlevel hb] at hcheck
      exact runBoundary_of_cut hcheck (.inl rfl)
    | stall =>
      rw [raiseHard_of_equal_stall hconf hlevel hb] at hcheck
      exact runBoundary_of_cut hcheck (.inr rfl)

/-! ### The end of an instruction -/

/-- Counting DISICNT touches the count and the latch only (40 R164). -/
theorem countDisi_frame (cycles : Nat) (s : State) :
    { countDisi cycles s with disicnt := s.disicnt, disiLatch := s.disiLatch } = s := by
  unfold countDisi
  split
  · rfl
  · split <;> rfl

/-- A step that loaded the count does not count (40 R164). -/
theorem countDisi_of_loaded (cycles : Nat) {s : State} (h : s.disiLoaded = true) : countDisi cycles s = s := by
  simp only [countDisi, h, if_true]

/-- The count goes down to 0 at the least. -/
theorem toNat_disicnt_countDisi (cycles : Nat) {s : State} (h : s.disiLoaded = false) :
    (countDisi cycles s).disicnt.toNat = s.disicnt.toNat - cycles := by
  unfold countDisi
  rw [if_neg (by simp [h])]
  split
  · rename_i hzero
    simp [hzero]
  · have hlt : s.disicnt.toNat - cycles < 2 ^ 14 := by have := s.disicnt.isLt; omega
    exact (BitVec.toNat_ofNat _ _).trans (Nat.mod_eq_of_lt hlt)

/-- The latch stays while something of the count is left. -/
theorem disiLatch_countDisi (cycles : Nat) {s : State} (h : s.disiLoaded = false) :
    (countDisi cycles s).disiLatch = (s.disiLatch && decide (cycles < s.disicnt.toNat)) := by
  unfold countDisi
  rw [if_neg (by simp [h])]
  split
  · rename_i hzero
    simp [hzero]
  · have hleft : (s.disicnt.toNat - cycles != 0) = decide (cycles < s.disicnt.toNat) := by
      rw [Bool.eq_iff_iff, bne_iff_ne, decide_eq_true_iff]
      omega
    rw [← hleft]

theorem countDisi_keeps {α : Type} (f : State → α)
    (hf : ∀ (t : State) c l, f { t with disicnt := c, disiLatch := l } = f t) (cycles : Nat) (s : State) :
    f (countDisi cycles s) = f s := by
  rw [← hf (countDisi cycles s) s.disicnt s.disiLatch, countDisi_frame]

theorem Skid.countdown_left (k : Skid) : k.countdown.left = if k.fresh then k.left else k.left - 1 := by
  unfold Skid.countdown
  split <;> rfl

/-- The end of an instruction touches DISICNT, the latch, the skids, the marks and the counter of free values. -/
theorem endInstruction_frame (cycles : Nat) (s : State) :
    { endInstruction cycles s with
      disicnt := s.disicnt, disiLatch := s.disiLatch, disiLoaded := s.disiLoaded, draws := s.draws,
      skidStk := s.skidStk, skidMath := s.skidMath, skidDmac := s.skidDmac } = s :=
  congrArg (fun t : State => { t with
      disiLoaded := s.disiLoaded, draws := s.draws, skidStk := s.skidStk, skidMath := s.skidMath,
      skidDmac := s.skidDmac })
    (countDisi_frame cycles (countSkids (countDraw s)))

/-- Settles O6: DISICNT by the rules of its count, each skid by its own, and the frame. -/
theorem endOfAnInstruction : Obligations.EndOfAnInstruction := by
  intro cycles s
  have hskid (f : State → Skid) (hf : ∀ (t : State) c l, f { t with disicnt := c, disiLatch := l } = f t) :
      f (countDisi cycles (countSkids (countDraw s))) = f (countSkids (countDraw s)) :=
    countDisi_keeps f hf cycles _
  refine ⟨fun h => ⟨toNat_disicnt_countDisi cycles (s := countSkids (countDraw s)) h,
      disiLatch_countDisi cycles (s := countSkids (countDraw s)) h⟩,
    fun h => ?_, ?_, ?_, ?_, endInstruction_frame cycles s⟩
  · have hsame := countDisi_of_loaded cycles (s := countSkids (countDraw s)) h
    exact ⟨congrArg (·.disicnt) hsame, congrArg (·.disiLatch) hsame⟩
  · rw [← Skid.countdown_left]
    exact congrArg (fun k : Skid => Skid.mk k.left false) (hskid (·.skidStk) fun _ _ _ => rfl)
  · rw [← Skid.countdown_left]
    exact congrArg (fun k : Skid => Skid.mk k.left false) (hskid (·.skidMath) fun _ _ _ => rfl)
  · rw [← Skid.countdown_left]
    exact congrArg (fun k : Skid => Skid.mk k.left false) (hskid (·.skidDmac) fun _ _ _ => rfl)

end Sys2Proof.Machine

/-! PROOFS. Device reset, and the instructions `DISI`, `PWRSAV`, `RESET` and `GOTO`
(70_reset_and_hazards.md R300, R301; 40_interrupt_control_instructions.md R160 to R174; 41 R199). -/

namespace Sys2Proof.Machine

/-! ### Device reset -/

theorem trapPending_deviceReset (cause : ResetCause) (s : State) (t : Trap) :
    trapPending t (deviceReset cause s) = false :=
  BitVec.getLsbD_zero

theorem curPc_deviceReset (cause : ResetCause) (s : State) : curPc (deviceReset cause s) = 0x000000#23 := by
  simp [curPc, evenPc, deviceReset]

theorem sp_deviceReset (cause : ResetCause) (s : State) : sp (deviceReset cause s) = 0x0800#16 := by
  simp [sp, deviceReset]

theorem readReg_intcon2_deviceReset (cause : ResetCause) (s : State) :
    readReg .intcon2 (deviceReset cause s) = 0x0000#16 := by
  simp [readReg, putBit, deviceReset]

theorem skidLeft_deviceReset (cause : ResetCause) (s : State) (t : Trap) :
    skidLeft t (deviceReset cause s) = 0 := by
  cases t <;> rfl

theorem ifsRead_deviceReset (cause : ResetCause) (s : State) (n : Fin 8) :
    ifsRead (deviceReset cause s) n = 0x0000#16 := by
  simp [ifsRead, deviceReset]

theorem iecRead_deviceReset (cause : ResetCause) (s : State) (n : Fin 8) :
    iecRead (deviceReset cause s) n = 0x0000#16 := by
  simp [iecRead, deviceReset]

theorem flagOf_deviceReset (cause : ResetCause) (s : State) (q : Source) :
    flagOf (deviceReset cause s) q = false := by
  rw [flagOf, ifsRead_deviceReset, BitVec.getLsbD_zero]

theorem enableOf_deviceReset (cause : ResetCause) (s : State) (q : Source) :
    enableOf (deviceReset cause s) q = false := by
  rw [enableOf, iecRead_deviceReset, BitVec.getLsbD_zero]

/-- 0x4444 holds 100 in each of its four fields. -/
theorem getLsbD_fourFields {k i : Nat} (hk : k < 4) (hi : i < 3) :
    (0x4444#16).getLsbD (4 * k + i) = (4#3).getLsbD i := by
  interval_cases k <;> interval_cases i <;> rfl

/-- Every implemented source has level 4 after a reset (11 R72). -/
theorem priorityOf_deviceReset (cause : ResetCause) (s : State) (q : Source) :
    priorityOf (deviceReset cause s) q = if sourceImplemented s.params q then 4#3 else 0#3 := by
  have hfield : q.val % 4 < 4 := Nat.mod_lt _ (by decide)
  have hread : ipcRead (deviceReset cause s) (Source.priorityReg q)
      = 0x4444#16 &&& priorityMask s.params (q.val / 4) := by
    simp only [ipcRead, deviceReset, ipcAfterReset, Source.priorityReg, Fin.getElem_fin, Vector.getElem_ofFn]
    rw [BitVec.and_comm (priorityMask _ _) 0x4444#16, and_and_self]
  apply BitVec.eq_of_getLsbD_eq
  intro i hi
  rw [priorityOf, hread, BitVec.getLsbD_extractLsb', BitVec.getLsbD_and, getLsbD_fourFields hfield hi,
    getLsbD_priorityMask s.params q hi]
  cases sourceImplemented s.params q <;> simp [hi]

theorem trapReady_of_not_pending {t : Trap} {s : State} (h : trapPending t s = false) : trapReady t s = false := by
  simp only [trapReady, h, Bool.false_and]

theorem intReady_of_no_flag {s : State} {q : Source} (h : flagOf s q = false) : intReady s q = false := by
  simp only [intReady, intReq, h, Bool.and_false, Bool.false_and]

/-- After a reset there is nothing to take: no trap is pending and no flag is set. -/
theorem select_deviceReset (cause : ResetCause) (s : State) : select (deviceReset cause s) = none :=
  select_eq_none
    (readyTrap_eq_none_iff.mpr fun t => trapReady_of_not_pending (trapPending_deviceReset cause s t))
    (winner_eq_none_iff.mpr fun q => intReady_of_no_flag (flagOf_deviceReset cause s q))

/-- Settles O58: the register values are those the reset writes, and the rest follows from the lemmas above. -/
theorem deviceResetValues : Obligations.DeviceResetValues := by
  refine fun cause s => ⟨curPc_deviceReset cause s, sp_deviceReset cause s, rfl, rfl, rfl, rfl, rfl, rfl, rfl, rfl,
    fun t => ⟨trapPending_deviceReset cause s t, skidLeft_deviceReset cause s t⟩,
    fun q => ⟨flagOf_deviceReset cause s q, enableOf_deviceReset cause s q, priorityOf_deviceReset cause s q⟩,
    select_deviceReset cause s, ?_, ?_, rfl, rfl⟩
  · rintro rfl
    rfl
  · rintro rfl
    rfl

/-- Settles O57 by reading the state after reset. -/
theorem resetState : Obligations.ResetState := by
  refine ⟨rfl, rfl, rfl, rfl, rfl, rfl, rfl, rfl, rfl, by decide, by decide, rfl, fun t => ?_⟩
  cases t <;> rfl

/-- Settles O16: the instruction is the device reset by software. -/
theorem resetInstruction : Obligations.ResetInstruction := fun s =>
  ⟨deviceReset .software s, rfl, curPc_deviceReset .software s, sp_deviceReset .software s, rfl, rfl, rfl, rfl,
    readReg_intcon2_deviceReset .software s, rfl, rfl, rfl,
    fun n => ⟨ifsRead_deviceReset .software s n, iecRead_deviceReset .software s n⟩,
    priorityOf_deviceReset .software s, rfl, rfl, rfl, rfl, rfl⟩

/-! ### The PC -/

theorem evenPc_of_even {a : PAddr} (h : a.getLsbD 0 = false) : evenPc a = a := by
  have hbit : a[0] = false := h
  apply BitVec.eq_of_getLsbD_eq
  intro i hi
  rw [evenPc, BitVec.getLsbD_and]
  interval_cases i <;> simp [hbit]

theorem evenPc_evenPc (a : PAddr) : evenPc (evenPc a) = evenPc a := evenPc_of_even (evenPc_bit0 a)

theorem curPc_setPc (a : PAddr) (s : State) : curPc (setPc a s) = evenPc a := evenPc_evenPc a

theorem toNat_mod_two_of_even {n : Nat} {a : BitVec n} (h : a.getLsbD 0 = false) : a.toNat % 2 = 0 := by
  rw [BitVec.getLsbD, Nat.testBit_zero] at h
  have := Nat.mod_two_eq_zero_or_one a.toNat
  simpa using h

theorem even_of_toNat_mod_two {n : Nat} {a : BitVec n} (h : a.toNat % 2 = 0) : a.getLsbD 0 = false := by
  rw [BitVec.getLsbD, Nat.testBit_zero, h]
  rfl

/-- Below the top of program space the PC moves on by 2 (10 R22). -/
theorem toNat_curPc_advancePc {s : State} (h : (curPc s).toNat + 2 < 2 ^ 23) :
    (curPc (advancePc 2 s)).toNat = (curPc s).toNat + 2 := by
  have hpc : (curPc s).toNat % 2 = 0 := toNat_mod_two_of_even (evenPc_bit0 s.pc)
  have hplus : (pcPlus (curPc s) 2).toNat = (curPc s).toNat + 2 := toNat_pcPlus h
  rw [advancePc, curPc_setPc, evenPc_of_even (even_of_toNat_mod_two (by omega)), hplus]

/-! ### `DISI` and `PWRSAV` -/

/-- A level that is not 7 is one that `DISI` masks (60 R241). -/
theorem le_six_of_ne_seven : ∀ {level : BitVec 3}, level ≠ 7#3 → level ≤ 6#3 := by decide

/-- With the latch at 1 only level 7 can be ready. -/
theorem intReady_of_latch {s : State} (hl : s.disiLatch = true) {q : Source} (hq : priorityOf s q ≠ 7#3) :
    intReady s q = false :=
  intReady_of_masked (maskedByDisi_eq_true_iff.mpr ⟨hl, le_six_of_ne_seven hq⟩)

/-- Settles O13: `DISI` loads the count and sets the latch, and the PC moves on. -/
theorem disiLoadsCountAndLatch : Obligations.DisiLoadsCountAndLatch := by
  intro lit14 s hlit
  have hlatch : disiLatchAfter lit14 s.params = true := by simp only [disiLatchAfter, hlit, if_false]
  exact ⟨_, rfl, rfl, hlatch, (readReg_intcon2_disi _).trans hlatch, fun q => intReady_of_latch hlatch,
    toNat_curPc_advancePc (s := { s with disicnt := lit14, disiLatch := _, disiLoaded := true }), fun _ => rfl, rfl⟩

/-- Settles O14: with the literal 0 the latch is what `DISI_ZERO` says. -/
theorem disiZero : Obligations.DisiZero := by
  intro s
  have hlatch : disiLatchAfter 0#14 s.params = true ↔ s.params.disiZero = .oneBoundary := by
    simp only [disiLatchAfter, if_true, beq_iff_eq]
  exact ⟨_, rfl, rfl, hlatch,
    toNat_curPc_advancePc (s := { s with disicnt := 0#14, disiLatch := _, disiLoaded := true }), fun _ => rfl, rfl⟩

/-- Settles O15: the literal chooses the mode, and the PC moves on. -/
theorem pwrsavStopsTheCpu : Obligations.PwrsavStopsTheCpu := by
  intro lit1 s
  refine ⟨_, rfl, ?_, ?_, toNat_curPc_advancePc (s := { s with power := _ }), fun _ => rfl, rfl⟩
  · rintro rfl
    rfl
  · rintro rfl
    rfl

/-! ### `GOTO` -/

theorem branchLiteral_of_implemented {target : PAddr} {s : State}
    (h : progImplemented s (evenPc target).toNat = true) : branchLiteral target s = ⟨setPc target s, false⟩ := by
  simp only [branchLiteral, h, if_true, Flow.andThen, if_false, Bool.false_eq_true]

/-- An unimplemented target is taken all the same where the raise does not reset the device (41 R199). -/
theorem branchLiteral_of_unimplemented {target : PAddr} {s u : State}
    (h : progImplemented s (evenPc target).toNat = false) (hraise : raiseHard .addrErr s = ⟨u, false⟩) :
    branchLiteral target s = ⟨setPc target u, false⟩ := by
  simp only [branchLiteral, h, hraise, Flow.andThen, if_false, Bool.false_eq_true]

theorem branchLiteral_of_reset {target : PAddr} {s u : State}
    (h : progImplemented s (evenPc target).toNat = false) (hraise : raiseHard .addrErr s = ⟨u, true⟩) :
    branchLiteral target s = ⟨u, true⟩ := by
  simp only [branchLiteral, h, hraise, Flow.andThen, if_true, if_false, Bool.false_eq_true]

theorem exec_goto (target : PAddr) (s : State) : exec (.goto target) s = .next (branchLiteral target s).state := rfl

/-- Settles O17. -/
theorem gotoImplemented : Obligations.GotoImplemented := by
  intro target s h
  refine ⟨setPc target s, ?_, curPc_setPc target s, fun _ => rfl, rfl⟩
  rw [exec_goto, branchLiteral_of_implemented h]

/-- Settles O18: without a conflict the raise sets ADDRERR, which nothing but an oscillator failure goes before. -/
theorem literalBranchToUnimplementedMemory : Obligations.LiteralBranchToUnimplementedMemory := by
  intro target s h ho hc
  have hbranch := branchLiteral_of_unimplemented h (raiseHard_addrErr ho hc)
  have hpending : trapPending .addrErr (setIntcon1Bit 3 s) = true := trapPending_setIntcon1Bit_self .addrErr s
  have hosc : trapPending .oscFail (setIntcon1Bit 3 s) = false :=
    (trapPending_setIntcon1Bit_other (t := .addrErr) (u := .oscFail) (by decide) s).trans ho
  refine ⟨setPc target (setIntcon1Bit 3 s), ?_, ?_, hpending, rfl, curPc_setPc target _,
    select_addrErr (s := setPc target (setIntcon1Bit 3 s)) hosc hpending hc, fun _ => rfl, rfl⟩
  · rw [exec_goto, hbranch]
  · rw [succeed, hbranch]

/-- Settles O19: the reset of the conflict cuts the branch off. -/
theorem literalBranchUnderConflict : Obligations.LiteralBranchUnderConflict := by
  intro target s h hconf
  rw [exec_goto, branchLiteral_of_reset h (raiseHard_addrErr_conflict hconf)]

end Sys2Proof.Machine

/-! PROOFS. The stack, exception entry, and the return from an exception
(41_trap_raising_instructions.md R191, R197, R213; 60_exceptions.md R245 to R249; 40 R170). -/

namespace Sys2Proof.Machine

/-! ### The stack check -/

theorem stackCheck_of_fits {full : Int} {ea : Word} {s : State} (h : stackViolation s full ea = false) :
    stackCheck full ea s = s := by
  simp only [stackCheck, h, if_false, Bool.false_eq_true]

/-- A stack error already pending is not raised again (60 R225). -/
theorem stackCheck_of_pending {s : State} (h : trapPending .stkErr s = true) (full : Int) (ea : Word) :
    stackCheck full ea s = s := by
  rw [stackCheck, raiseSoft_of_pending h, ite_self]

/-- A stack error raised afresh draws its skid (60 R228). -/
theorem skidStk_raiseSoft {s : State} (h : trapPending .stkErr s = false) :
    (raiseSoft .stkErr s).skidStk = ⟨drawnSkid s, true⟩ := by
  rw [raiseSoft_of_not_pending h]
  rfl

theorem stackCheck_of_violation {full : Int} {ea : Word} {s : State} (h : stackViolation s full ea = true) :
    stackCheck full ea s = raiseSoft .stkErr s := by
  simp only [stackCheck, h, if_true]

/-- A check that raises the stack error afresh draws a skid within the bound (60 R228). -/
theorem skidStk_stackCheck_le {full : Int} {ea : Word} {s : State} (hp : trapPending .stkErr s = false)
    (hv : stackViolation s full ea = true) : (stackCheck full ea s).skidStk.left ≤ s.params.softTrapSkid := by
  rw [stackCheck_of_violation hv, skidStk_raiseSoft hp]
  exact drawnSkid_le s

theorem trapPending_stackCheck_of_violation {full : Int} {ea : Word} {s : State}
    (hv : stackViolation s full ea = true) : trapPending .stkErr (stackCheck full ea s) = true := by
  rw [stackCheck_of_violation hv]
  exact trapPending_raiseSoft_self .stkErr s

/-- The check of an address of W15, in the words of 41 R191. -/
theorem stackViolation_iff {s : State} {a : Word} :
    stackViolation s a.toNat a = true ↔ (s.splimArmed = true ∧ s.splim < a) ∨ a < 0x0800#16 := by
  rw [stackViolation_word, Bool.or_eq_true, Bool.and_eq_true, decide_eq_true_iff, decide_eq_true_iff]

theorem stackViolation_eq_false_iff {s : State} {a : Word} :
    stackViolation s a.toNat a = false ↔ (s.splimArmed = false ∨ a ≤ s.splim) ∧ 0x0800#16 ≤ a := by
  rw [← Bool.not_eq_true, stackViolation_iff, not_or, not_and_or, BitVec.not_lt, BitVec.not_lt, Bool.not_eq_true]

/-! ### A push -/

/-- The word a push into data RAM has written (41 R213). -/
theorem ramWord_pushWord (check : Bool) (v : Word) {s : State} (h : placeOf s (sp s).toNat = .ram) :
    ramWord (pushWord check v s) (sp s).toNat = v := by
  have hepoch : (pushWord check v s).ramEpoch = s.ramEpoch :=
    pushWord_keeps (·.ramEpoch) (fun _ _ _ _ _ _ => rfl) check v h
  have hparams : (pushWord check v s).params = s.params := pushWord_keeps (·.params) (fun _ _ _ _ _ _ => rfl) check v h
  rw [ramWord_congr (s := setRamWord (sp s).toNat v s) (mem_pushWord check v h) hepoch hparams,
    ramWord_setRamWord_same]

theorem ramByte_pushWord_other (check : Bool) (v : Word) {s : State} (h : placeOf s (sp s).toNat = .ram) {a : Nat}
    (h0 : a ≠ (sp s).toNat) (h1 : a ≠ (sp s).toNat + 1) : ramByte (pushWord check v s) a = ramByte s a := by
  have hepoch : (pushWord check v s).ramEpoch = s.ramEpoch :=
    pushWord_keeps (·.ramEpoch) (fun _ _ _ _ _ _ => rfl) check v h
  rw [ramByte_congr (s := setRamWord (sp s).toNat v s) (mem_pushWord check v h) hepoch,
    ramByte_setRamWord_other v s h0 h1]

/-- A push that is checked and fails raises the stack error beside the write. -/
theorem pushWord_of_violation (v : Word) {s : State} (h : placeOf s (sp s).toNat = .ram)
    (hv : stackViolation s (sp s).toNat (sp s) = true) :
    pushWord true v s = setSp (sp s + 2#16) (raiseSoft .stkErr (setRamWord (sp s).toNat v s)) := by
  rw [pushWord_ram true v h, hv, Bool.and_self, if_pos rfl]

/-- A push that is unchecked or fits raises nothing. -/
theorem pushWord_of_fits {check : Bool} (v : Word) {s : State} (h : placeOf s (sp s).toNat = .ram)
    (hc : check = false ∨ stackViolation s (sp s).toNat (sp s) = false) :
    pushWord check v s = setSp (sp s + 2#16) (setRamWord (sp s).toNat v s) := by
  rw [pushWord_ram check v h, if_neg]
  rw [Bool.and_eq_true, not_and_or, Bool.not_eq_true, Bool.not_eq_true]
  exact hc

/-- Settles O22: the word, W15 and the frame of any push, then the push that fails its check and the one that does
not. -/
theorem pushWritesAtW15 : Obligations.PushWritesAtW15 := by
  rintro check v s ⟨_, hram, _⟩
  refine ⟨ramWord_pushWord check v hram, sp_pushWord check v hram, fun a => ramByte_pushWord_other check v hram,
    fun hcheck hfails => ?_, fun hfits => ?_,
    pushWord_keeps (fun t => { t with
      mem := s.mem, w15 := s.w15, intcon1 := s.intcon1, skidStk := s.skidStk, draws := s.draws })
      (fun _ _ _ _ _ _ => rfl) check v hram⟩
  · subst hcheck
    rw [pushWord_of_violation v hram (stackViolation_iff.mpr hfails)]
    refine ⟨raiseSoft_intcon1 .stkErr _, fun hp => ?_, fun hp => ?_⟩
    · rw [raiseSoft_of_pending (s := setRamWord (sp s).toNat v s) hp]
      rfl
    · have hskid := skidStk_raiseSoft (s := setRamWord (sp s).toNat v s) hp
      rw [setSp_skidStk, hskid]
      exact ⟨drawnSkid_le s, rfl⟩
  · rw [pushWord_of_fits v hram (hfits.imp_right stackViolation_eq_false_iff.mpr)]
    exact ⟨rfl, rfl⟩

/-! ### A pop -/

/-- What a pop has done before any address error: W15 lowered, a draw, and the check of the address (41 R191). -/
def lowered (s : State) : State :=
  stackCheck (sp s - 2#16).toNat (sp s - 2#16) (countDraw (setSp (sp s - 2#16) s))

/-- A property of the fields that a pop does not touch before any address error. -/
theorem lowered_keeps {α : Type} (f : State → α)
    (hf : ∀ (t : State) p i k d, f { t with w15 := p, intcon1 := i, skidStk := k, draws := d } = f t) (s : State) :
    f (lowered s) = f s :=
  (stackCheck_keeps f (fun t i k d => hf t t.w15 i k d) _ _ _).trans
    (hf s ((sp s - 2#16) &&& 0xFFFE#16) s.intcon1 s.skidStk (s.draws + 1))

theorem sp_lowered (s : State) : sp (lowered s) = sp s - 2#16 :=
  (stackCheck_keeps sp (fun _ _ _ _ => rfl) _ _ _).trans (sp_setSp_sub _ (by decide) s s)

/-- The status bit of the stack error after the check of a pop. -/
theorem intcon1_lowered (s : State) : (lowered s).intcon1 =
    if stackViolation s (sp s - 2#16).toNat (sp s - 2#16) then putBit s.intcon1 2 true else s.intcon1 :=
  stackCheck_intcon1 _ _ _

/-- W15 after a pop that no device reset cuts off (41 R213). -/
theorem sp_popWord {s : State} (h : (popWord s).flow.reset = false) : sp (popWord s).flow.state = sp s - 2#16 := by
  by_cases hplace : placeOf s (sp s - 2#16).toNat = .absent
  · rw [popWord_absent hplace] at h ⊢
    exact (raiseHard_keeps sp (fun _ _ _ => rfl) h).trans (sp_lowered s)
  · rw [popWord_present hplace]
    exact sp_lowered s

/-- A pop from unimplemented memory without a conflict: the stack check, then ADDRERR. -/
theorem popWord_absent_flow {s : State} (hplace : placeOf s (sp s - 2#16).toNat = .absent)
    (ho : trapPending .oscFail s = false) (hc : cpuIpl s < 13#4) :
    (popWord s).flow = ⟨setIntcon1Bit 3 (lowered s), false⟩ := by
  rw [popWord_absent hplace]
  refine raiseHard_addrErr (s := lowered s) ?_ ?_
  · rw [trapPending, intcon1_lowered]
    split
    · exact (getLsbD_putBit s.intcon1 2 1 true).trans ho
    · exact ho
  · rw [lowered_keeps cpuIpl (fun _ _ _ _ _ => rfl)]
    exact hc

/-- Settles O23, by what stands at the address below W15. -/
theorem popReadsBelowW15 : Obligations.PopReadsBelowW15 := by
  intro s
  refine ⟨fun hplace => ?_, fun r hplace => ?_, fun hplace => ?_, fun hplace ho hc => ?_, fun hreset => ?_⟩
  · rw [popWord_ram hplace]
  · have hlowered : placeOf (setSp (sp s - 2#16) s) (sp s - 2#16).toNat = .reg r := (placeOf_congr rfl _).trans hplace
    rw [popWord_present (by rw [hplace]; simp), readDataWord, hlowered]
  · rw [popWord_present hplace]
    exact ⟨rfl, rfl, intcon1_lowered s⟩
  · rw [popWord_absent_flow hplace ho hc, popWord_absent hplace, setIntcon1Bit_intcon1, intcon1_lowered]
    exact ⟨rfl, rfl, rfl⟩
  · exact ⟨sp_popWord hreset, fun a => popWord_keeps (ramByte · a) (fun _ _ _ _ _ _ => rfl) hreset,
      popWord_keeps (fun t => { t with
        w15 := s.w15, intcon1 := s.intcon1, skidStk := s.skidStk, draws := s.draws, stalled := s.stalled })
        (fun _ _ _ _ _ _ => rfl) hreset⟩

/-! ### `RETFIE` -/

theorem exec_retfie (s : State) : exec .retfie s = .next (returnFromException s).state := rfl

/-- The return where no device reset cuts a pop off (40 R170). -/
theorem returnFromException_of_pops {s : State} (h1 : (popWord s).flow.reset = false)
    (h2 : (popWord (popWord s).flow.state).flow.reset = false) :
    returnFromException s = ⟨restoreFrame (popWord s).value (popWord (popWord s).flow.state).value
      (popWord (popWord s).flow.state).flow.state, false⟩ := by
  simp only [returnFromException, Flow.andThen, h1, h2, if_false, Bool.false_eq_true]

theorem returnFromException_of_first_reset {s : State} (h : (popWord s).flow.reset = true) :
    returnFromException s = (popWord s).flow := by
  simp only [returnFromException, Flow.andThen, h, if_true]

theorem returnFromException_of_second_reset {s : State} (h1 : (popWord s).flow.reset = false)
    (h2 : (popWord (popWord s).flow.state).flow.reset = true) :
    returnFromException s = (popWord (popWord s).flow.state).flow := by
  simp only [returnFromException, Flow.andThen, h1, h2, if_true, if_false, Bool.false_eq_true]

/-- The PC a frame holds, its bit 0 at 0 (40 R170). -/
theorem curPc_restoreFrame (high low : Word) (s : State) :
    curPc (restoreFrame high low s) = high.extractLsb' 0 7 ++ low.extractLsb' 1 15 ++ 0#1 := by
  have hassoc : high.extractLsb' 0 7 ++ low.extractLsb' 1 15 ++ 0#1
      = high.extractLsb' 0 7 ++ (low.extractLsb' 1 15 ++ 0#1) := by rw [BitVec.append_assoc, BitVec.cast_eq]
  have heven : (high.extractLsb' 0 7 ++ (low.extractLsb' 1 15 ++ 0#1) : PAddr).getLsbD 0 = false := by
    rw [BitVec.getLsbD_append, if_pos (by decide), BitVec.getLsbD_append, if_pos (by decide), BitVec.getLsbD_zero]
  rw [restoreFrame, curPc_setPc, hassoc, evenPc_of_even heven]

/-- Settles O21: the restore after both pops, or the state of the pop that a device reset cut off. -/
theorem retfieRestoresWhatItPops : Obligations.RetfieRestoresWhatItPops := by
  intro s
  refine ⟨fun h1 h2 => ?_, fun h => ?_, fun h1 h2 => ?_⟩
  · have hsr : (popWord (popWord s).flow.state).flow.state.sr = s.sr :=
      (popWord_keeps (·.sr) (fun _ _ _ _ _ _ => rfl) h2).trans (popWord_keeps (·.sr) (fun _ _ _ _ _ _ => rfl) h1)
    have hcorcon : (popWord (popWord s).flow.state).flow.state.corcon = s.corcon :=
      (popWord_keeps (·.corcon) (fun _ _ _ _ _ _ => rfl) h2).trans
        (popWord_keeps (·.corcon) (fun _ _ _ _ _ _ => rfl) h1)
    refine ⟨_, by rw [exec_retfie, returnFromException_of_pops h1 h2], ?_, ?_, curPc_restoreFrame _ _ _, rfl⟩
    · rw [← hsr]
      rfl
    · rw [← hcorcon]
      rfl
  · rw [exec_retfie, returnFromException_of_first_reset h]
  · rw [exec_retfie, returnFromException_of_second_reset h1 h2]

/-! ### `RETFIE` from data RAM -/

/-- A pop from data RAM. -/
theorem popWord_eq_lowered {s : State} (h : placeOf s (sp s - 2#16).toNat = .ram) :
    popWord s = ⟨ramWord s (sp s - 2#16).toNat, ⟨lowered s, false⟩, false⟩ := popWord_ram h

theorem sub_two_sub_two (v : Word) : v - 2#16 - 2#16 = v - 4#16 := by bv_omega

theorem sp_lowered_twice (s : State) : sp (lowered (lowered s)) = sp s - 4#16 := by
  rw [sp_lowered, sp_lowered, sub_two_sub_two]

/-- A property of the fields that two such pops do not touch. -/
theorem lowered_twice_keeps {α : Type} (f : State → α)
    (hf : ∀ (t : State) p i k d, f { t with w15 := p, intcon1 := i, skidStk := k, draws := d } = f t) (s : State) :
    f (lowered (lowered s)) = f s :=
  (lowered_keeps f hf _).trans (lowered_keeps f hf s)

/-- A pop whose address fits raises nothing. -/
theorem lowered_of_fits {s : State} (h : stackViolation s (sp s - 2#16).toNat (sp s - 2#16) = false) :
    lowered s = countDraw (setSp (sp s - 2#16) s) :=
  stackCheck_of_fits h

/-- The address the second pop checks. -/
theorem stackViolation_second_pop (s : State) :
    stackViolation (lowered s) (sp (lowered s) - 2#16).toNat (sp (lowered s) - 2#16)
      = stackViolation s (sp s - 4#16).toNat (sp s - 4#16) := by
  rw [sp_lowered, sub_two_sub_two, lowered_keeps (stackViolation · _ _) (fun _ _ _ _ _ => rfl)]

theorem intcon1_lowered_twice (s : State) : (lowered (lowered s)).intcon1 =
    if stackViolation s (sp s - 2#16).toNat (sp s - 2#16) = true ∨
        stackViolation s (sp s - 4#16).toNat (sp s - 4#16) = true
      then putBit s.intcon1 2 true else s.intcon1 := by
  have hidem : putBit (putBit s.intcon1 2 true) 2 true = putBit s.intcon1 2 true :=
    putBit_of_set (by rw [getLsbD_putBit]; simp)
  rw [intcon1_lowered, stackViolation_second_pop, intcon1_lowered]
  cases stackViolation s (sp s - 2#16).toNat (sp s - 2#16) <;>
    cases stackViolation s (sp s - 4#16).toNat (sp s - 4#16) <;> simp [hidem]

/-- A pop leaves the skid of a pending stack error. -/
theorem skidStk_lowered_of_pending {s : State} (h : trapPending .stkErr s = true) :
    (lowered s).skidStk = s.skidStk :=
  congrArg (·.skidStk) (stackCheck_of_pending (s := countDraw (setSp (sp s - 2#16) s)) h _ _)

theorem trapPending_lowered_of_pending {s : State} (h : trapPending .stkErr s = true) :
    trapPending .stkErr (lowered s) = true := by
  rw [lowered, stackCheck_of_pending (s := countDraw (setSp (sp s - 2#16) s)) h]
  exact h

/-- A pop that raises the stack error afresh leaves it pending with a skid within the bound. -/
theorem skidStk_lowered_le {s : State} (hp : trapPending .stkErr s = false)
    (hv : stackViolation s (sp s - 2#16).toNat (sp s - 2#16) = true) :
    (lowered s).skidStk.left ≤ s.params.softTrapSkid :=
  skidStk_stackCheck_le (s := countDraw (setSp (sp s - 2#16) s)) hp hv

theorem trapPending_lowered_of_violation {s : State}
    (hv : stackViolation s (sp s - 2#16).toNat (sp s - 2#16) = true) : trapPending .stkErr (lowered s) = true :=
  trapPending_stackCheck_of_violation (s := countDraw (setSp (sp s - 2#16) s)) hv

/-- Of two pops the first that fails draws the skid, and the second finds it pending. -/
theorem skidStk_lowered_twice_le {s : State} (hp : trapPending .stkErr s = false)
    (hv : stackViolation s (sp s - 2#16).toNat (sp s - 2#16) = true ∨
      stackViolation s (sp s - 4#16).toNat (sp s - 4#16) = true) :
    (lowered (lowered s)).skidStk.left ≤ s.params.softTrapSkid := by
  cases hfirst : stackViolation s (sp s - 2#16).toNat (sp s - 2#16) with
  | true =>
    rw [skidStk_lowered_of_pending (trapPending_lowered_of_violation hfirst)]
    exact skidStk_lowered_le hp hfirst
  | false =>
    have hsecond := hv.resolve_left (by rw [hfirst]; decide)
    have hp' : trapPending .stkErr (lowered s) = false := by
      rw [lowered_of_fits hfirst]
      exact hp
    have hle := skidStk_lowered_le hp' ((stackViolation_second_pop s).trans hsecond)
    rwa [lowered_keeps (·.params) (fun _ _ _ _ _ => rfl) s] at hle

/-- `RETFIE` with both words in data RAM. -/
theorem exec_retfie_ram {s : State} (h1 : placeOf s (sp s - 2#16).toNat = .ram)
    (h2 : placeOf s (sp s - 4#16).toNat = .ram) :
    exec .retfie s = .next (restoreFrame (ramWord s (sp s - 2#16).toNat) (ramWord s (sp s - 4#16).toNat)
      (lowered (lowered s))) := by
  have hplace : placeOf (lowered s) (sp (lowered s) - 2#16).toNat = .ram := by
    rw [sp_lowered, sub_two_sub_two, lowered_keeps (placeOf · _) (fun _ _ _ _ _ => rfl)]
    exact h2
  have hsecond : popWord (lowered s) = ⟨ramWord s (sp s - 4#16).toNat, ⟨lowered (lowered s), false⟩, false⟩ := by
    rw [popWord_eq_lowered hplace, sp_lowered, sub_two_sub_two,
      lowered_keeps (ramWord · _) (fun _ _ _ _ _ => rfl)]
  have hpop := popWord_eq_lowered h1
  rw [exec_retfie, returnFromException_of_pops (by rw [hpop]) (by rw [hpop, hsecond]), hpop, hsecond]

/-- Settles O20: both pops read data RAM; the stack error is that of two checks. -/
theorem retfieRestoresTheFrame : Obligations.RetfieRestoresTheFrame := by
  rintro s ⟨_, hplace1, _⟩ ⟨_, hplace2, _⟩
  refine ⟨_, exec_retfie_ram hplace1 hplace2, sp_lowered_twice s, ?_, ?_,
    curPc_restoreFrame _ _ _, fun ⟨hfit1, hfit2⟩ => ?_,
    fun hviol => ⟨?_, fun hp => ?_, fun hp => skidStk_lowered_twice_le hp hviol⟩,
    fun a => lowered_twice_keeps (ramByte · a) (fun _ _ _ _ _ => rfl) s, ?_⟩
  · exact congrArg (withSrl _) (lowered_twice_keeps (·.sr) (fun _ _ _ _ _ => rfl) s)
  · exact congrArg (putBit · 3 _) (lowered_twice_keeps (·.corcon) (fun _ _ _ _ _ => rfl) s)
  · have hsecond : stackViolation (lowered s) (sp (lowered s) - 2#16).toNat (sp (lowered s) - 2#16) = false :=
      (stackViolation_second_pop s).trans hfit2
    rw [lowered_of_fits hsecond, lowered_of_fits hfit1]
    exact ⟨rfl, rfl⟩
  · exact (intcon1_lowered_twice s).trans (if_pos hviol)
  · exact (skidStk_lowered_of_pending (trapPending_lowered_of_pending hp)).trans (skidStk_lowered_of_pending hp)
  · exact lowered_twice_keeps (fun t => { t with
      pc := s.pc, sr := s.sr, corcon := s.corcon, w15 := s.w15, intcon1 := s.intcon1, skidStk := s.skidStk,
      draws := s.draws }) (fun _ _ _ _ _ => rfl) s

end Sys2Proof.Machine

/-! PROOFS. Exception entry with its frame in data RAM, and its return (60_exceptions.md R245 to R249; 40 R170). -/

namespace Sys2Proof.Machine

/-! ### The words of the frame -/

/-- The frame of a state: `sp` and the word after it are data RAM. -/
def FrameInRam (s : State) : Prop := placeOf s (sp s).toNat = .ram ∧ placeOf s (sp s + 2#16).toNat = .ram

theorem frameInRam_of_ramAt {s : State} (h : ramAt s (sp s)) (h' : ramAt s (sp s + 2#16)) : FrameInRam s :=
  ⟨h.2.1, h'.2.1⟩

/-- Data memory after entry: the two words of the captured PC and status. -/
theorem mem_takeException (v : Nat) (level : BitVec 4) (kind : Kind) {s : State} (h : FrameInRam s) :
    (takeException v level kind s).mem
      = (setRamWord (sp s + 2#16).toNat (frameHigh (captureReturn s))
          (setRamWord (sp s).toNat (frameLow (captureReturn s)) s)).mem := by
  obtain ⟨-, hmem, -, -⟩ := pushFrame_ram (s := captureReturn s) h.1 h.2
  rw [takeException, fetchVector_mem, enterPriority_mem, hmem]
  rfl

theorem ramByte_takeException (v : Nat) (level : BitVec 4) (kind : Kind) {s : State} (h : FrameInRam s) (a : Nat) :
    ramByte (takeException v level kind s) a
      = ramByte (setRamWord (sp s + 2#16).toNat (frameHigh (captureReturn s))
          (setRamWord (sp s).toNat (frameLow (captureReturn s)) s)) a := by
  have hepoch : (takeException v level kind s).ramEpoch = s.ramEpoch :=
    takeException_keeps (·.ramEpoch) (fun _ _ _ _ _ _ _ _ _ _ _ => rfl) v level kind h.1 h.2
  exact ramByte_congr (mem_takeException v level kind h)
    (by rw [hepoch, setRamWord_ramEpoch, setRamWord_ramEpoch]) a

theorem ramWord_takeException (v : Nat) (level : BitVec 4) (kind : Kind) {s : State} (h : FrameInRam s) (a : Nat) :
    ramWord (takeException v level kind s) a
      = ramWord (setRamWord (sp s + 2#16).toNat (frameHigh (captureReturn s))
          (setRamWord (sp s).toNat (frameLow (captureReturn s)) s)) a := by
  have hparams : (takeException v level kind s).params = s.params :=
    takeException_keeps (·.params) (fun _ _ _ _ _ _ _ _ _ _ _ => rfl) v level kind h.1 h.2
  rw [ramWord, ramWord, ramByte_takeException v level kind h, ramByte_takeException v level kind h, hparams,
    setRamWord_params, setRamWord_params]

/-- The first word of the frame holds PC<15:0> (60 R246). -/
theorem ramWord_takeException_low (v : Nat) (level : BitVec 4) (kind : Kind) {s : State} (h : FrameInRam s) :
    ramWord (takeException v level kind s) (sp s).toNat = (curPc s).extractLsb' 0 16 := by
  rw [ramWord_takeException v level kind h, ramWord_setRamWord_other _ _ (frame_apart s), ramWord_setRamWord_same,
    frameLow_capture]

/-- The second word of the frame holds SRL, IPL3 and PC<22:16> (60 R246). -/
theorem ramWord_takeException_high (v : Nat) (level : BitVec 4) (kind : Kind) {s : State} (h : FrameInRam s) :
    ramWord (takeException v level kind s) (sp s + 2#16).toNat
      = srl s ++ (BitVec.ofBool (ipl3 s) ++ (curPc s).extractLsb' 16 7) := by
  rw [ramWord_takeException v level kind h, ramWord_setRamWord_same, frameHigh_capture]

/-- Entry writes no byte outside its frame. -/
theorem ramByte_takeException_other (v : Nat) (level : BitVec 4) (kind : Kind) {s : State} (h : FrameInRam s) {a : Nat}
    (h0 : a ≠ (sp s).toNat) (h1 : a ≠ (sp s).toNat + 1) (h2 : a ≠ (sp s + 2#16).toNat)
    (h3 : a ≠ (sp s + 2#16).toNat + 1) : ramByte (takeException v level kind s) a = ramByte s a := by
  rw [ramByte_takeException v level kind h, ramByte_setRamWord_other _ _ h2 h3, ramByte_setRamWord_other _ _ h0 h1]

/-! ### W15, the priority and the PC after entry -/

theorem sp_takeException (v : Nat) (level : BitVec 4) (kind : Kind) {s : State} (h : FrameInRam s) :
    sp (takeException v level kind s) = sp s + 4#16 := by
  obtain ⟨hsp, -⟩ := pushFrame_ram (s := captureReturn s) h.1 h.2
  rw [sp, takeException, fetchVector_w15, enterPriority_w15]
  exact hsp

/-- The state in which entry sets the priority: only the status bit of the stack error can differ from `s`. -/
theorem pushFrame_capture_keeps {α : Type} (f : State → α)
    (hf : ∀ (t : State) m p i k d tp ts,
      f { t with mem := m, w15 := p, intcon1 := i, skidStk := k, draws := d, tempPc := tp, tempSrl := ts } = f t)
    {s : State} (h : FrameInRam s) : f (pushFrame (captureReturn s)) = f s := by
  obtain ⟨-, -, -, hkeeps⟩ := pushFrame_ram (s := captureReturn s) h.1 h.2
  exact (hkeeps f fun t m p i k d => hf t m p i k d t.tempPc t.tempSrl).trans
    (hf s s.mem s.w15 s.intcon1 s.skidStk s.draws _ _)

/-- INTCON1 after entry: the status bit of the stack error, where a checked push failed (60 R249). -/
theorem intcon1_takeException (v : Nat) (level : BitVec 4) (kind : Kind) {s : State} (h : FrameInRam s) :
    (takeException v level kind s).intcon1
      = if s.params.excPushStackCheck == .checked &&
            (stackViolation s (sp s).toNat (sp s) || stackViolation s (sp s + 2#16).toNat (sp s + 2#16))
          then putBit s.intcon1 2 true else s.intcon1 := by
  obtain ⟨-, -, hbit, -⟩ := pushFrame_ram (s := captureReturn s) h.1 h.2
  rw [takeException, fetchVector_intcon1, enterPriority_intcon1]
  exact hbit

/-- The stack error leaves NSTDIS, INTCON1<15>. -/
theorem nstdis_pushFrame {s : State} (h : FrameInRam s) : nstdis (pushFrame (captureReturn s)) = nstdis s := by
  obtain ⟨-, -, hbit, -⟩ := pushFrame_ram (s := captureReturn s) h.1 h.2
  rw [nstdis, hbit]
  split
  · exact getLsbD_putBit s.intcon1 2 15 true
  · rfl

theorem sr_takeException_trap (v : Nat) (level : BitVec 4) {s : State} (h : FrameInRam s) :
    (takeException v level .trap s).sr = withIpl ((level - 8#4).extractLsb' 0 3) s.sr :=
  congrArg (withIpl _) (pushFrame_capture_keeps (·.sr) (fun _ _ _ _ _ _ _ _ => rfl) h)

theorem corcon_takeException_trap (v : Nat) (level : BitVec 4) {s : State} (h : FrameInRam s) :
    (takeException v level .trap s).corcon = putBit s.corcon 3 true :=
  congrArg (putBit · 3 true) (pushFrame_capture_keeps (·.corcon) (fun _ _ _ _ _ _ _ _ => rfl) h)

theorem sr_takeException_interrupt (v : Nat) (level : BitVec 4) {s : State} (h : FrameInRam s) :
    (takeException v level .interrupt s).sr
      = withIpl (if nstdis s then 7#3 else level.extractLsb' 0 3) s.sr := by
  rw [← nstdis_pushFrame h, ← pushFrame_capture_keeps (·.sr) (fun _ _ _ _ _ _ _ _ => rfl) h]
  rfl

theorem corcon_takeException_interrupt (v : Nat) (level : BitVec 4) {s : State} (h : FrameInRam s) :
    (takeException v level .interrupt s).corcon = s.corcon :=
  pushFrame_capture_keeps (·.corcon) (fun _ _ _ _ _ _ _ _ => rfl) h

/-- The PC a vector gives, its bit 0 at 0 (60 R248). -/
theorem evenPc_vector (w : PWord) : evenPc (w.extractLsb' 0 23) = w.extractLsb' 1 22 ++ 0#1 := by
  apply BitVec.eq_of_getLsbD_eq
  intro i hi
  rw [evenPc, BitVec.getLsbD_and, BitVec.getLsbD_append, BitVec.getLsbD_extractLsb', BitVec.getLsbD_extractLsb']
  interval_cases i <;> simp

/-- The PC after entry comes from the vector table in use (60 R248). -/
theorem curPc_takeException (v : Nat) (level : BitVec 4) (kind : Kind) {s : State} (h : FrameInRam s) :
    curPc (takeException v level kind s)
      = (progRead24 s ((if altivt s then 0x000104 else 0x000004) + 2 * v)).extractLsb' 1 22 ++ 0#1 := by
  have hvector (f : State → PWord) (hf : f = fun t => progRead24 t (vectorAddr (altivt t) v)) :
      f (enterPriority kind level (pushFrame (captureReturn s))) = f s := by
    subst hf
    have hpush := pushFrame_capture_keeps (fun t => progRead24 t (vectorAddr (altivt t) v))
      (fun _ _ _ _ _ _ _ _ => rfl) h
    cases kind <;> exact hpush
  rw [← evenPc_vector]
  exact (curPc_setPc _ _).trans (congrArg (fun w => evenPc (w.extractLsb' 0 23)) (hvector _ rfl))

/-! ### The CPU priority after entry -/

theorem extractLsb'_withIpl (v : BitVec 3) (sr : Word) : (withIpl v sr).extractLsb' 5 3 = v := by
  apply BitVec.eq_of_getLsbD_eq
  intro i hi
  rw [withIpl, BitVec.getLsbD_extractLsb', BitVec.getLsbD_append, BitVec.getLsbD_append]
  interval_cases i <;> simp

theorem ipl3_putBit (v : Word) (b : Bool) : (putBit v 3 b).getLsbD 3 = b := by
  rw [getLsbD_putBit]
  simp

/-- A trap's level is IPL3 = 1 and its level less 8 in IPL<2:0> (60 R247). -/
theorem trap_level_bits : ∀ {level : BitVec 4}, 8#4 ≤ level →
    BitVec.ofBool true ++ (level - 8#4).extractLsb' 0 3 = level := by decide

theorem interrupt_level_bits : ∀ {level : BitVec 4}, level ≤ 7#4 →
    BitVec.ofBool false ++ level.extractLsb' 0 3 = level := by decide

theorem cpuIpl_takeException_trap (v : Nat) (level : BitVec 4) {s : State} (h : FrameInRam s) :
    cpuIpl (takeException v level .trap s) = BitVec.ofBool true ++ (level - 8#4).extractLsb' 0 3 := by
  rw [cpuIpl, ipl3, ipl, corcon_takeException_trap v level h, sr_takeException_trap v level h, ipl3_putBit,
    extractLsb'_withIpl]

theorem cpuIpl_takeException_interrupt (v : Nat) (level : BitVec 4) {s : State} (h : FrameInRam s) :
    cpuIpl (takeException v level .interrupt s)
      = BitVec.ofBool (ipl3 s) ++ (if nstdis s then 7#3 else level.extractLsb' 0 3) := by
  rw [cpuIpl, ipl3, ipl, corcon_takeException_interrupt v level h, sr_takeException_interrupt v level h,
    extractLsb'_withIpl]
  rfl

/-! ### The statements -/

/-- What entry writes put back to what it is in `s`. -/
def putBackEntry (s t : State) : State :=
  { t with
    mem := s.mem, w15 := s.w15, sr := s.sr, corcon := s.corcon, pc := s.pc, tempPc := s.tempPc, tempSrl := s.tempSrl }

theorem putBackEntry_setRamWord (s : State) (a : Nat) (v : Word) (t : State) :
    putBackEntry s (setRamWord a v t) = putBackEntry s t := rfl

theorem putBackEntry_setSp (s : State) (v : Word) (t : State) : putBackEntry s (setSp v t) = putBackEntry s t := rfl

theorem putBackEntry_fetchVector_enterPriority (s : State) (v : Nat) (level : BitVec 4) (kind : Kind) (t : State) :
    putBackEntry s (fetchVector v (enterPriority kind level t)) = putBackEntry s t := by
  cases kind <;> rfl

/-- With the frame in data RAM and no failing check entry touches no more than the frame, W15, the priority, the PC
and the temporary buffer. -/
theorem takeException_frame (v : Nat) (level : BitVec 4) (kind : Kind) {s : State} (h : FrameInRam s)
    (hc : s.params.excPushStackCheck = .unchecked ∨
      (stackViolation s (sp s).toNat (sp s) = false ∧
        stackViolation s (sp s + 2#16).toNat (sp s + 2#16) = false)) :
    putBackEntry s (takeException v level kind s) = s := by
  rw [takeException, putBackEntry_fetchVector_enterPriority, pushFrame_fits (s := captureReturn s) h.1 h.2 hc,
    putBackEntry_setSp, putBackEntry_setRamWord, putBackEntry_setRamWord]
  rfl

/-- Settles O24, one lemma for each thing entry writes. -/
theorem entrySavesAndJumps : Obligations.EntrySavesAndJumps := by
  intro v level kind s h1 h2 hc
  have h := frameInRam_of_ramAt h1 h2
  refine ⟨ramWord_takeException_low v level kind h, ramWord_takeException_high v level kind h,
    sp_takeException v level kind h, ?_, ?_, curPc_takeException v level kind h,
    fun a => ramByte_takeException_other v level kind h, takeException_frame v level kind h hc⟩
  · rintro rfl
    exact ⟨corcon_takeException_trap v level h, sr_takeException_trap v level h⟩
  · rintro rfl
    exact ⟨corcon_takeException_interrupt v level h, sr_takeException_interrupt v level h⟩

/-- Settles O25: IPL3 and IPL<2:0> after entry make up the level. -/
theorem entryPriority : Obligations.EntryPriority := by
  intro v level s h1 h2
  have h := frameInRam_of_ramAt h1 h2
  refine ⟨fun hlevel => ?_, fun hlevel hipl3 hn => ?_, fun hipl3 hn => ?_⟩
  · rw [cpuIpl_takeException_trap v level h, trap_level_bits hlevel]
  · rw [cpuIpl_takeException_interrupt v level h, hipl3, hn, if_neg Bool.false_ne_true, interrupt_level_bits hlevel]
  · rw [cpuIpl_takeException_interrupt v level h, hipl3, hn, if_pos rfl]
    rfl

/-- Settles O26: a failing check sets the status bit, and the rest of entry does not ask for it. -/
theorem entryStackError : Obligations.EntryStackError := by
  intro v level kind s h1 h2 hchecked hviol
  have h := frameInRam_of_ramAt h1 h2
  refine ⟨?_, ramWord_takeException_low v level kind h, ramWord_takeException_high v level kind h,
    sp_takeException v level kind h, curPc_takeException v level kind h⟩
  have hcond : (s.params.excPushStackCheck == .checked &&
      (stackViolation s (sp s).toNat (sp s) || stackViolation s (sp s + 2#16).toNat (sp s + 2#16))) = true := by
    rw [hchecked, Bool.and_eq_true, Bool.or_eq_true]
    exact ⟨rfl, hviol⟩
  rw [intcon1_takeException v level kind h, if_pos hcond]

/-! ### The return undoes entry -/

/-- What the arbitration answers depends only on which sources are ready and on their priorities. -/
theorem bestOf_congr {s t : State} (hready : ∀ q, intReady t q = intReady s q)
    (hprio : ∀ q, priorityOf t q = priorityOf s q) : ∀ l : List Source, bestOf t l = bestOf s l
  | [] => rfl
  | q :: rest => by simp only [bestOf, bestOf_congr hready hprio rest, hready, hprio]

theorem select_congr {s t : State} (htrap : ∀ u, trapReady u t = trapReady u s)
    (hready : ∀ q, intReady t q = intReady s q) (hprio : ∀ q, priorityOf t q = priorityOf s q) :
    select t = select s := by
  have hfirst : readyTrap t = readyTrap s := congrArg (allTraps.find? ·) (funext htrap)
  have hwinner : winner t = winner s := bestOf_congr hready hprio _
  simp only [select, hfirst, hwinner, hprio]

/-- The high word of the frame gives SRL and IPL3 back (60 R246, 40 R170). -/
theorem frameHigh_srl (b : Byte) (c : Bool) (p : BitVec 7) : (b ++ (BitVec.ofBool c ++ p)).extractLsb' 8 8 = b := by
  apply BitVec.eq_of_getLsbD_eq
  intro i hi
  rw [BitVec.getLsbD_extractLsb', BitVec.getLsbD_append]
  simp [hi]

theorem frameHigh_ipl3 (b : Byte) (c : Bool) (p : BitVec 7) :
    (b ++ (BitVec.ofBool c ++ p) : Word).getLsbD 7 = c := by
  rw [BitVec.getLsbD_append, if_pos (by decide), BitVec.getLsbD_append, if_neg (by decide)]
  simp

theorem frameHigh_pc (b : Byte) (c : Bool) (p : BitVec 7) :
    (b ++ (BitVec.ofBool c ++ p) : Word).extractLsb' 0 7 = p := by
  apply BitVec.eq_of_getLsbD_eq
  intro i hi
  rw [BitVec.getLsbD_extractLsb', BitVec.getLsbD_append, if_pos (by omega), BitVec.getLsbD_append, if_pos (by omega)]
  simp [hi]

/-- The two words of the frame hold the whole of an even PC. -/
theorem pc_of_frame {a : PAddr} (h : a.getLsbD 0 = false) :
    a.extractLsb' 16 7 ++ (a.extractLsb' 0 16).extractLsb' 1 15 ++ 0#1 = a := by
  have hbit : a[0] = false := h
  apply BitVec.eq_of_getLsbD_eq
  intro i hi
  simp only [BitVec.getLsbD_append, BitVec.getLsbD_extractLsb']
  interval_cases i <;> simp [hbit]

theorem extractLsb'_withIpl_high (v : BitVec 3) (sr : Word) :
    (withIpl v sr).extractLsb' 8 8 = sr.extractLsb' 8 8 := by
  apply BitVec.eq_of_getLsbD_eq
  intro i hi
  rw [withIpl, BitVec.getLsbD_extractLsb', BitVec.getLsbD_append]
  simp [hi]

theorem srHigh_srl (s : State) : s.sr.extractLsb' 8 8 ++ srl s = s.sr := by
  apply BitVec.eq_of_getLsbD_eq
  intro i hi
  simp only [srl, BitVec.getLsbD_append, BitVec.getLsbD_extractLsb']
  interval_cases i <;> simp

/-- Entry leaves SR<15:8>. -/
theorem srHigh_takeException (v : Nat) (level : BitVec 4) (kind : Kind) {s : State} (h : FrameInRam s) :
    (takeException v level kind s).sr.extractLsb' 8 8 = s.sr.extractLsb' 8 8 := by
  cases kind with
  | trap => rw [sr_takeException_trap v level h, extractLsb'_withIpl_high]
  | interrupt => rw [sr_takeException_interrupt v level h, extractLsb'_withIpl_high]

/-- IPL3 put back makes CORCON what it was. -/
theorem corcon_takeException_restored (v : Nat) (level : BitVec 4) (kind : Kind) {s : State} (h : FrameInRam s) :
    putBit (takeException v level kind s).corcon 3 (ipl3 s) = s.corcon := by
  have hbits : ∀ j, (takeException v level kind s).corcon.getLsbD j = s.corcon.getLsbD j ∨ 3 = j := by
    intro j
    cases kind with
    | trap =>
      rw [corcon_takeException_trap v level h, getLsbD_putBit]
      by_cases hj : 3 = j
      · exact .inr hj
      · exact .inl (if_neg fun hc => hj hc.1)
    | interrupt => exact .inl (by rw [corcon_takeException_interrupt v level h])
  apply BitVec.eq_of_getLsbD_eq
  intro j hj
  rw [getLsbD_putBit]
  split
  · rename_i hc
    rw [← hc.1]
    rfl
  · rename_i hne
    exact (hbits j).resolve_right fun hc => hne ⟨hc, hj⟩

theorem add_four_sub_two (v : Word) : v + 4#16 - 2#16 = v + 2#16 := by bv_omega

theorem add_four_sub_four (v : Word) : v + 4#16 - 4#16 = v := by bv_omega

/-- The stack check of an address is the same before and after entry. -/
theorem stackViolation_takeException (v : Nat) (level : BitVec 4) (kind : Kind) {s : State} (h : FrameInRam s)
    (full : Int) (ea : Word) : stackViolation (takeException v level kind s) full ea = stackViolation s full ea :=
  takeException_keeps (stackViolation · full ea) (fun _ _ _ _ _ _ _ _ _ _ _ => rfl) v level kind h.1 h.2

theorem ramAt_takeException (v : Nat) (level : BitVec 4) (kind : Kind) {s : State} (h : FrameInRam s) {a : Word}
    (ha : ramAt s a) : ramAt (takeException v level kind s) a :=
  (ramAt_congr (takeException_keeps (·.params) (fun _ _ _ _ _ _ _ _ _ _ _ => rfl) v level kind h.1 h.2) a).mpr ha

/-- The frame of a return after the frame of an entry: SR, CORCON, INTCON1 and the skid are back. -/
theorem return_entry_frame {s e t : State}
    (hreturn : { t with
      pc := e.pc, sr := e.sr, corcon := e.corcon, w15 := e.w15, intcon1 := e.intcon1, skidStk := e.skidStk,
      draws := e.draws } = e)
    (hentry : putBackEntry s e = s) (hsr : t.sr = s.sr) (hcorcon : t.corcon = s.corcon)
    (hintcon1 : t.intcon1 = e.intcon1) (hskid : t.skidStk = e.skidStk) :
    { t with
      pc := s.pc, w15 := s.w15, mem := s.mem, tempPc := s.tempPc, tempSrl := s.tempSrl, draws := s.draws } = s := by
  have hdraws : e.draws = s.draws := congrArg (·.draws) hentry
  rw [hsr, hcorcon, hintcon1, hskid, ← hdraws]
  exact (congrArg (putBackEntry s) hreturn).trans hentry

/-- The PC, W15, data memory, the temporary buffer and the counter of free values play no part in `Select()`. -/
theorem select_of_frame {s t : State}
    (h : { t with
      pc := s.pc, w15 := s.w15, mem := s.mem, tempPc := s.tempPc, tempSrl := s.tempSrl, draws := s.draws } = s) :
    select t = select s := by
  refine select_congr (fun u => ?_) (fun q => ?_) fun q => ?_
  · rw [← congrArg (trapReady u) h]
    cases u <;> rfl
  · rw [← congrArg (intReady · q) h]
    rfl
  · rw [← congrArg (priorityOf · q) h]
    rfl

/-- Settles O27: `RETFIE` reads the frame entry wrote (`retfieRestoresTheFrame`), and the frames of both compose. -/
theorem retfieUndoesEntry : Obligations.RetfieUndoesEntry := by
  intro v level kind s h1 h2 hfit1 hfit2
  have h := frameInRam_of_ramAt h1 h2
  have hsp := sp_takeException v level kind h
  have hentry := takeException_frame v level kind h (.inr ⟨hfit1, hfit2⟩)
  have hhigh := ramWord_takeException_high v level kind h
  have hlow := ramWord_takeException_low v level kind h
  have hother (a : Nat) := ramByte_takeException_other v level kind (a := a) h
  have hsr := srHigh_takeException v level kind h
  have hcorcon := corcon_takeException_restored v level kind h
  have hret := retfieRestoresTheFrame (takeException v level kind s)
  rw [hsp, add_four_sub_two, add_four_sub_four, hhigh, hlow, frameHigh_srl, frameHigh_ipl3, frameHigh_pc,
    stackViolation_takeException v level kind h, stackViolation_takeException v level kind h, hsr, hcorcon,
    srHigh_srl, pc_of_frame (a := curPc s) (evenPc_bit0 s.pc)] at hret
  obtain ⟨t, hexec, htsp, htsr, htcorcon, htpc, hfits, -, htbyte, htframe⟩ :=
    hret (ramAt_takeException v level kind h h2) (ramAt_takeException v level kind h h1)
  obtain ⟨htintcon1, htskid⟩ := hfits ⟨hfit2, hfit1⟩
  have hframe := return_entry_frame htframe hentry htsr htcorcon htintcon1 htskid
  exact ⟨t, hexec, htpc, htsp, fun a ha0 ha1 ha2 ha3 => (htbyte a).trans (hother a ha0 ha1 ha2 ha3), hframe,
    select_of_frame hframe⟩

end Sys2Proof.Machine

/-! PROOFS. Math errors of the accumulators, requests from peripherals and pins, and software writes
(41_trap_raising_instructions.md R202 to R205; 60_exceptions.md R236, R237; 40 R165, R176, R178; 10_state.md). -/

namespace Sys2Proof.Machine

/-! ### Math errors under an enable -/

/-- A math error raised where its enable is 1 (41 R202, R203). -/
def raiseMathIf (enabled : Bool) (detail : Nat) (s : State) : State := if enabled then raiseMath detail s else s

theorem raiseMathIf_intcon1 (enabled : Bool) (detail : Nat) (s : State) :
    (raiseMathIf enabled detail s).intcon1
      = if enabled then putBit (putBit s.intcon1 detail true) 4 true else s.intcon1 := by
  cases enabled with
  | true => exact raiseMath_intcon1 detail s
  | false => rfl

/-- A property of the fields that a math error does not touch. -/
theorem raiseMathIf_keeps {α : Type} (f : State → α)
    (hf : ∀ (t : State) i k d, f { t with intcon1 := i, skidMath := k, draws := d } = f t) (enabled : Bool)
    (detail : Nat) (s : State) : f (raiseMathIf enabled detail s) = f s := by
  cases enabled with
  | true => exact raiseMath_keeps f hf detail s
  | false => rfl

/-- The enable COVTE is none of the bits a math error sets. -/
theorem covte_raiseMathIf (enabled : Bool) {detail : Nat} (h : detail ≠ 8) (s : State) :
    covte (raiseMathIf enabled detail s) = covte s := by
  rw [covte, raiseMathIf_intcon1]
  split
  · rw [getLsbD_putBit, if_neg (by decide), getLsbD_putBit, if_neg fun hc => h hc.1]
    rfl
  · rfl

/-- The detail bit of a carry out of bit 31 (41 R202). -/
def AccName.detail31 : AccName → Nat
  | .a => 14
  | .b => 13

/-- The detail bit of a carry out of bit 39 (41 R203). -/
def AccName.detail39 : AccName → Nat
  | .a => 12
  | .b => 11

/-- The enable of a carry out of bit 31 (41 R202). -/
def AccName.enable31 (s : State) : AccName → Bool
  | .a => ovate s
  | .b => ovbte s

theorem accOverflow31_eq (x : AccName) (s : State) :
    accOverflow31 x s = raiseMathIf (x.enable31 s) x.detail31 s := by cases x <;> rfl

theorem accOverflow39_eq (x : AccName) (s : State) :
    accOverflow39 x s = raiseMathIf (covte s) x.detail39 s := by cases x <;> rfl

theorem enable31_setOverflow (x : AccName) (b : Bool) (v : Acc) (s : State) :
    x.enable31 (setOverflow x b (setAcc x v s)) = x.enable31 s := by cases x <;> rfl

/-- An accumulator operation: its result and overflow bit, then the two math errors (41 R202, R203; 10 R30). -/
theorem accAction_eq (x : AccName) (carry31 carry39 : Bool) (v : Acc) (s : State) :
    accAction x carry31 carry39 v s = raiseMathIf (carry39 && covte s) x.detail39
      (raiseMathIf (carry31 && x.enable31 s) x.detail31 (setOverflow x carry31 (setAcc x v s))) := by
  have hdetail : x.detail31 ≠ 8 := by cases x <;> decide
  have hcovte : covte (setOverflow x carry31 (setAcc x v s)) = covte s := by cases x <;> rfl
  simp only [accAction, accOverflow31_eq, accOverflow39_eq, enable31_setOverflow]
  cases carry31 <;> cases carry39 <;>
    simp only [if_true, if_false, Bool.false_eq_true, Bool.true_and, Bool.false_and,
      covte_raiseMathIf _ hdetail, hcovte]
  all_goals rfl

theorem act_accOp (inhibit : Bool) (x : AccName) (carry31 carry39 : Bool) (v : Acc) (s : State) :
    act inhibit (.accOp x carry31 carry39 v) s = Run.ok (accAction x carry31 carry39 v (countDraw s)) := rfl

/-- INTCON1 after an accumulator operation (41 R201 to R203). -/
theorem intcon1_accOp (inhibit : Bool) (x : AccName) (carry31 carry39 : Bool) (v : Acc) (s : State) :
    (act inhibit (.accOp x carry31 carry39 v) s).state.intcon1
      = (let first := if carry31 && x.enable31 s then putBit (putBit s.intcon1 x.detail31 true) 4 true else s.intcon1
         if carry39 && covte s then putBit (putBit first x.detail39 true) 4 true else first) := by
  rw [act_accOp, Run.ok, accAction_eq, raiseMathIf_intcon1, raiseMathIf_intcon1]
  cases x <;> rfl

/-- A property of the fields that no math error touches is that of the result and the overflow bit written. -/
theorem accOp_keeps {α : Type} (f : State → α)
    (hf : ∀ (t : State) i k d, f { t with intcon1 := i, skidMath := k, draws := d } = f t)
    (inhibit : Bool) (x : AccName) (carry31 carry39 : Bool) (v : Acc) (s : State) :
    f (act inhibit (.accOp x carry31 carry39 v) s).state = f (setOverflow x carry31 (setAcc x v s)) := by
  rw [act_accOp, Run.ok, accAction_eq, raiseMathIf_keeps f hf, raiseMathIf_keeps f hf,
    ← hf (setOverflow x carry31 (setAcc x v s)) s.intcon1 s.skidMath (s.draws + 1)]
  cases x <;> rfl

/-- Settles O40: INTCON1 of either operation, read off for one carry and for both, and the frame. -/
theorem accumulatorOverflow : Obligations.AccumulatorOverflow := by
  refine fun inhibit s v => ⟨intcon1_accOp inhibit .a true false v s, intcon1_accOp inhibit .b true false v s,
    intcon1_accOp inhibit .a false true v s, intcon1_accOp inhibit .b false true v s, fun carry31 carry39 => ?_⟩
  exact ⟨intcon1_accOp inhibit .a carry31 carry39 v s, intcon1_accOp inhibit .b carry31 carry39 v s,
    accOp_keeps (fun t => { t with
      accA := s.accA, sr := s.sr, intcon1 := s.intcon1, skidMath := s.skidMath, draws := s.draws })
      (fun _ _ _ _ => rfl) inhibit .a carry31 carry39 v s,
    accOp_keeps (fun t => { t with
      accB := s.accB, sr := s.sr, intcon1 := s.intcon1, skidMath := s.skidMath, draws := s.draws })
      (fun _ _ _ _ => rfl) inhibit .b carry31 carry39 v s,
    accOp_keeps (·.sr) (fun _ _ _ _ => rfl) inhibit .a carry31 carry39 v s,
    accOp_keeps (·.accA) (fun _ _ _ _ => rfl) inhibit .a carry31 carry39 v s,
    accOp_keeps (·.sr) (fun _ _ _ _ => rfl) inhibit .b carry31 carry39 v s,
    accOp_keeps (·.accB) (fun _ _ _ _ => rfl) inhibit .b carry31 carry39 v s⟩

/-- A shift by more than 16 is an error and writes nothing (41 R205). -/
theorem act_sftac_of_far (inhibit : Bool) (x : AccName) {amount : Int} (h : 16 < amount ∨ amount < -16) (v : Acc)
    (s : State) : act inhibit (.sftac x amount v) s = Run.ok (raiseMath 7 (countDraw s)) :=
  congrArg Run.ok (if_pos h)

theorem act_sftac_of_near (inhibit : Bool) (x : AccName) {amount : Int} (h : ¬ (16 < amount ∨ amount < -16)) (v : Acc)
    (s : State) : act inhibit (.sftac x amount v) s = Run.ok (setAcc x v (countDraw s)) :=
  congrArg Run.ok (if_neg h)

/-- Settles O41, by the range of the shift. -/
theorem accumulatorShift : Obligations.AccumulatorShift := by
  refine fun inhibit x amount v s => ⟨fun hfar => ?_, fun hlow hhigh => ?_⟩
  · rw [act_sftac_of_far inhibit x hfar]
    exact ⟨raiseMath_intcon1 7 (countDraw s), raiseMath_keeps (·.accA) (fun _ _ _ _ => rfl) 7 (countDraw s),
      raiseMath_keeps (·.accB) (fun _ _ _ _ => rfl) 7 (countDraw s)⟩
  · rw [act_sftac_of_near inhibit x (by omega)]
    cases x <;> exact ⟨rfl, rfl, rfl⟩

/-! ### Requests -/

theorem setFlag_frame (q : Source) (s : State) : { setFlag q s with ifs := s.ifs } = s := by
  unfold setFlag
  split <;> rfl

theorem setFlag_of_unimplemented {q : Source} {s : State} (h : sourceImplemented s.params q = false) :
    setFlag q s = s := by
  simp only [setFlag, h, if_false, Bool.false_eq_true]

/-- Settles O42: the event is `setFlag`. -/
theorem flagSetByPeripheral : Obligations.FlagSetByPeripheral := fun q s =>
  ⟨fun h => ⟨flagOf_setFlag_self h, fun _ => flagOf_setFlag_other s, setFlag_frame q s⟩, setFlag_of_unimplemented⟩

theorem getLsbD_putPin (v : BitVec 5) (n m : Fin 5) (level : Bool) :
    (putPin v n level).getLsbD m.val = if n = m then level else v.getLsbD m.val := by
  have hm := m.isLt
  unfold putPin
  by_cases hnm : n = m
  · subst hnm
    cases level <;> simp
  · have hval : m.val ≠ n.val := fun h => hnm (Fin.ext h.symm)
    cases level <;> simp [hnm, hval]

/-- The pin moves from the other level on the edge its INTnEP bit selects (60 R237). -/
def selectedEdge (n : Fin 5) (level : Bool) (s : State) : Bool :=
  s.pins.getLsbD n.val != level && level == !edgeNegative s n

/-- The edge the bit does not select, or no change of level, moves the pin only. -/
theorem pinEvent_of_no_edge {n : Fin 5} {level : Bool} {s : State} (h : selectedEdge n level s = false) :
    pinEvent n level s = { s with pins := putPin s.pins n level } :=
  if_neg (Bool.eq_false_iff.mp h)

/-- The selected edge also sets the flag of the pin's source. -/
theorem pinEvent_of_edge {n : Fin 5} {level : Bool} {s : State} (h : selectedEdge n level s = true) :
    pinEvent n level s = setFlag (pinSource n) { s with pins := putPin s.pins n level } :=
  if_pos h

theorem pins_setFlag (q : Source) (s : State) : (setFlag q s).pins = s.pins := by
  unfold setFlag
  split <;> rfl

theorem pins_pinEvent (n : Fin 5) (level : Bool) (s : State) : (pinEvent n level s).pins = putPin s.pins n level := by
  cases h : selectedEdge n level s with
  | true => rw [pinEvent_of_edge h, pins_setFlag]
  | false => rw [pinEvent_of_no_edge h]

theorem flagOf_pinEvent_other {n : Fin 5} (level : Bool) (s : State) {r : Source} (hr : r ≠ pinSource n) :
    flagOf (pinEvent n level s) r = flagOf s r := by
  cases h : selectedEdge n level s with
  | true => rw [pinEvent_of_edge h]; exact flagOf_setFlag_other _ hr
  | false => rw [pinEvent_of_no_edge h]; rfl

theorem pinEvent_frame (n : Fin 5) (level : Bool) (s : State) :
    { pinEvent n level s with ifs := s.ifs, pins := s.pins } = s := by
  cases h : selectedEdge n level s with
  | true =>
    rw [pinEvent_of_edge h]
    exact congrArg (fun t : State => { t with pins := s.pins }) (setFlag_frame (pinSource n) _)
  | false => rw [pinEvent_of_no_edge h]

/-- Settles O43, by whether the edge is the selected one. -/
theorem pinEdge : Obligations.PinEdge := by
  refine ⟨⟨rfl, rfl, rfl, rfl, rfl⟩, fun n level s => ⟨fun r hr => flagOf_pinEvent_other level s hr, fun m hm => ?_, ?_,
    fun hpin hedge himpl => ?_, fun hquiet => ?_, pinEvent_frame n level s⟩⟩
  · exact (congrArg (BitVec.getLsbD · m.val) (pins_pinEvent n level s)).trans
      ((getLsbD_putPin s.pins n m level).trans (if_neg hm.symm))
  · exact (congrArg (BitVec.getLsbD · n.val) (pins_pinEvent n level s)).trans
      ((getLsbD_putPin s.pins n n level).trans (if_pos rfl))
  · have hsel : selectedEdge n level s = true := by
      rw [selectedEdge, edgeNegative, hpin, hedge]
      cases level <;> rfl
    exact (congrArg (flagOf · _) (pinEvent_of_edge hsel)).trans (flagOf_setFlag_self himpl)
  · have hsel : selectedEdge n level s = false := by
      rw [selectedEdge, edgeNegative]
      rcases hquiet with h | h <;> rw [h] <;> cases level <;> simp
    exact congrArg (·.ifs) (pinEvent_of_no_edge hsel)

/-! ### Software writes of SR and CORCON -/

/-- The bits of SR that a software write sets and clears (10 R27, R28). -/
def srWritable (s : State) : Word := if nstdis s then 0x000F#16 else 0x00EF#16

/-- NSTDIS only takes IPL<2:0> away from the bits software writes. -/
theorem getLsbD_srWritable_of_outside (s : State) {i : Nat} (h : (0x00EF#16).getLsbD i = false) :
    (srWritable s).getLsbD i = false := by
  have hsub : (0x000F#16 : Word) = 0x00EF#16 &&& 0x000F#16 := rfl
  unfold srWritable
  split
  · rw [hsub, BitVec.getLsbD_and, h, Bool.false_and]
  · exact h

/-- Each bit of SR after a software write: written, cleared by a 0 only, or kept (10 R27, R28; 40 R176). -/
theorem getLsbD_srWritten (s : State) (v : Word) (i : Nat) :
    (srWritten s v).getLsbD i = if (srWritable s).getLsbD i then v.getLsbD i
      else if (0x3400#16).getLsbD i then s.sr.getLsbD i && v.getLsbD i else s.sr.getLsbD i := by
  have hdisjoint : ∀ i < 16, ¬ ((srWritable s).getLsbD i = true ∧ (0x3400#16).getLsbD i = true) := by
    unfold srWritable
    cases nstdis s <;> decide
  have hform : srWritten s v = (s.sr &&& ~~~(0x3400#16 ||| srWritable s)) ||| (s.sr &&& v &&& 0x3400#16) |||
      (v &&& srWritable s) := rfl
  by_cases hi : i < 16
  · have hnot := hdisjoint i hi
    rw [hform]
    simp only [BitVec.getLsbD_or, BitVec.getLsbD_and, BitVec.getLsbD_not, hi, decide_true, Bool.true_and]
    cases hw : (srWritable s).getLsbD i <;> cases hc : (0x3400#16).getLsbD i
    · simp
    · simp
    · simp
    · exact absurd ⟨hw, hc⟩ hnot
  · have hout (x : Word) : x.getLsbD i = false := BitVec.getLsbD_of_ge x i (by omega)
    simp only [hout, Bool.false_eq_true, if_false]

/-- The bits software does not write at all. -/
theorem getLsbD_srWritten_kept (s : State) (v : Word) {i : Nat} (hw : (0x00EF#16).getLsbD i = false)
    (hc : (0x3400#16).getLsbD i = false) : (srWritten s v).getLsbD i = s.sr.getLsbD i := by
  rw [getLsbD_srWritten, getLsbD_srWritable_of_outside s hw, hc, if_neg Bool.false_ne_true, if_neg Bool.false_ne_true]

/-- The bits software can clear and not set. -/
theorem getLsbD_srWritten_cleared (s : State) (v : Word) {i : Nat} (hi : i = 10 ∨ i = 12 ∨ i = 13) :
    (srWritten s v).getLsbD i = (s.sr.getLsbD i && v.getLsbD i) := by
  have hw : (0x00EF#16).getLsbD i = false := by rcases hi with rfl | rfl | rfl <;> rfl
  have hc : (0x3400#16).getLsbD i = true := by rcases hi with rfl | rfl | rfl <;> rfl
  rw [getLsbD_srWritten, getLsbD_srWritable_of_outside s hw, hc, if_neg Bool.false_ne_true, if_pos rfl]

theorem extractLsb'_srWritten_ipl (s : State) (v : Word) :
    (srWritten s v).extractLsb' 5 3 = if nstdis s then s.sr.extractLsb' 5 3 else v.extractLsb' 5 3 := by
  apply BitVec.eq_of_getLsbD_eq
  intro i hi
  cases hn : nstdis s <;>
    simp only [BitVec.getLsbD_extractLsb', getLsbD_srWritten, srWritable, hn, if_true, if_false, Bool.false_eq_true] <;>
    interval_cases i <;> simp

theorem extractLsb'_srWritten_flags (s : State) (v : Word) :
    (srWritten s v).extractLsb' 0 4 = v.extractLsb' 0 4 := by
  apply BitVec.eq_of_getLsbD_eq
  intro i hi
  cases hn : nstdis s <;>
    simp only [BitVec.getLsbD_extractLsb', getLsbD_srWritten, srWritable, hn, if_true, if_false, Bool.false_eq_true] <;>
    interval_cases i <;> simp

/-- Above the low byte, and at bit 4, software sets no bit. -/
theorem getLsbD_of_srWritten_high {s : State} {v : Word} {i : Nat} (hi : i = 4 ∨ 8 ≤ i)
    (h : (srWritten s v).getLsbD i = true) : s.sr.getLsbD i = true := by
  have hw : (0x00EF#16).getLsbD i = false := by
    rcases hi with rfl | hi
    · rfl
    · exact BitVec.getLsbD_of_ge (0xEF#8) i hi
  cases hc : (0x3400#16).getLsbD i with
  | false => rwa [getLsbD_srWritten_kept s v hw hc] at h
  | true =>
    rw [getLsbD_srWritten] at h
    rw [getLsbD_srWritable_of_outside s hw, hc, if_neg Bool.false_ne_true, if_pos rfl, Bool.and_eq_true] at h
    exact h.1

/-- Settles O44, bit by bit. -/
theorem writeSr : Obligations.WriteSr := by
  intro v s
  have hkept (i : Nat) (hi : i = 4 ∨ i = 8 ∨ i = 9 ∨ i = 11 ∨ i = 14 ∨ i = 15) :
      (srWritten s v).getLsbD i = s.sr.getLsbD i := by
    rcases hi with rfl | rfl | rfl | rfl | rfl | rfl <;> exact getLsbD_srWritten_kept s v rfl rfl
  exact ⟨extractLsb'_srWritten_ipl s v, extractLsb'_srWritten_flags s v, fun i => getLsbD_of_srWritten_high, hkept,
    fun i => getLsbD_srWritten_cleared s v, hkept 15 (by decide), hkept 14 (by decide), rfl⟩

/-- Each bit of CORCON after a software write (10 R31, R32; 40 R178). -/
theorem getLsbD_corconWritten (s : State) (v : Word) (i : Nat) :
    (corconWritten s v).getLsbD i = (s.corcon.getLsbD i && (0x0700#16).getLsbD i ||
      s.corcon.getLsbD i && v.getLsbD i && (0x0008#16).getLsbD i || v.getLsbD i && (0x18F7#16).getLsbD i) := by
  simp only [corconWritten, BitVec.getLsbD_or, BitVec.getLsbD_and]

/-- A field of CORCON that software writes whole. -/
theorem extractLsb'_corconWritten_written (s : State) (v : Word) {start len : Nat}
    (h : ∀ i < len, (0x0700#16).getLsbD (start + i) = false ∧ (0x0008#16).getLsbD (start + i) = false ∧
      (0x18F7#16).getLsbD (start + i) = true) :
    (corconWritten s v).extractLsb' start len = v.extractLsb' start len := by
  apply BitVec.eq_of_getLsbD_eq
  intro i hi
  obtain ⟨hkept, hcleared, hwritten⟩ := h i hi
  rw [BitVec.getLsbD_extractLsb', BitVec.getLsbD_extractLsb', getLsbD_corconWritten, hkept, hcleared, hwritten,
    Bool.and_false, Bool.and_false, Bool.and_true, Bool.false_or, Bool.false_or]

/-- DL, which software does not write. -/
theorem extractLsb'_corconWritten_dl (s : State) (v : Word) :
    (corconWritten s v).extractLsb' 8 3 = s.corcon.extractLsb' 8 3 := by
  have hbits : ∀ i < 3, (0x0700#16).getLsbD (8 + i) = true ∧ (0x0008#16).getLsbD (8 + i) = false ∧
      (0x18F7#16).getLsbD (8 + i) = false := by decide
  apply BitVec.eq_of_getLsbD_eq
  intro i hi
  obtain ⟨hkept, hcleared, hwritten⟩ := hbits i hi
  rw [BitVec.getLsbD_extractLsb', BitVec.getLsbD_extractLsb', getLsbD_corconWritten, hkept, hcleared, hwritten,
    Bool.and_true, Bool.and_false, Bool.and_false, Bool.or_false, Bool.or_false]

theorem ipl3_corconWritten (s : State) (v : Word) :
    (corconWritten s v).getLsbD 3 = (s.corcon.getLsbD 3 && v.getLsbD 3) := by
  have hbits : (0x0700#16).getLsbD 3 = false ∧ (0x0008#16).getLsbD 3 = true ∧ (0x18F7#16).getLsbD 3 = false := by decide
  obtain ⟨hkept, hcleared, hwritten⟩ := hbits
  rw [getLsbD_corconWritten, hkept, hcleared, hwritten, Bool.and_false, Bool.and_false, Bool.and_true, Bool.or_false,
    Bool.false_or]

/-- Bits 15:13 of CORCON read 0 (10 R31). -/
theorem extractLsb'_readReg_corcon (s : State) : (readReg .corcon s).extractLsb' 13 3 = 0#3 := by
  have habsent : ∀ i < 3, (0x1FFF#16).getLsbD (13 + i) = false := by decide
  apply BitVec.eq_of_getLsbD_eq
  intro i hi
  rw [BitVec.getLsbD_extractLsb', readReg, BitVec.getLsbD_and, habsent i hi, Bool.and_false, Bool.and_false,
    BitVec.getLsbD_zero]

/-- Settles O45, field by field. -/
theorem writeCorcon : Obligations.WriteCorcon := fun v s =>
  ⟨ipl3_corconWritten s v, extractLsb'_corconWritten_written s v (by decide),
    extractLsb'_corconWritten_written s v (by decide), extractLsb'_corconWritten_dl s v,
    extractLsb'_corconWritten_written s v (by decide), extractLsb'_readReg_corcon _, rfl⟩

/-! ### Software writes of DISICNT, INTCON1, W15 and SPLIM -/

/-- Settles O46: the latch stays exactly where the count written is not 0. -/
theorem writeDisicnt : Obligations.WriteDisicnt := by
  intro v s
  have hlatch : (swWrite .disicnt v s).disiLatch = (s.disiLatch && v.extractLsb' 0 14 != 0#14) := rfl
  refine ⟨rfl, fun hzero => ?_, fun hne => ?_, rfl⟩
  · rw [hlatch, hzero, bne_self_eq_false, Bool.and_false]
  · rw [hlatch, bne_iff_ne.mpr hne, Bool.and_true]

/-- Each bit of INTCON1 after a software write (10 R35; 41 R204). -/
theorem getLsbD_intcon1Written (s : State) (v : Word) {i : Nat} (h0 : i ≠ 0) (h4 : i ≠ 4) :
    (intcon1Written s v).getLsbD i = v.getLsbD i := by
  have hkept : (v &&& 0xFFFE#16).getLsbD i = v.getLsbD i := by
    by_cases hi : i < 16
    · have hmask : ∀ i < 16, i ≠ 0 → (0xFFFE#16).getLsbD i = true := by decide
      rw [BitVec.getLsbD_and, hmask i hi h0, Bool.and_true]
    · rw [BitVec.getLsbD_of_ge _ i (by omega), BitVec.getLsbD_of_ge _ i (by omega)]
  unfold intcon1Written
  split
  · rw [getLsbD_putBit, if_neg fun hc => h4 hc.1.symm, hkept]
  · exact hkept

/-- MATHERR stays 1 against a write of 0 exactly while an enabled overflow stands (41 R204). -/
theorem getLsbD_intcon1Written_mathErr (s : State) (v : Word) :
    (intcon1Written s v).getLsbD 4 = (v.getLsbD 4 || (trapPending .mathErr s && mathErrBlocked s)) := by
  have hmask : (v &&& 0xFFFE#16).getLsbD 4 = v.getLsbD 4 := by
    rw [BitVec.getLsbD_and]
    exact Bool.and_true _
  unfold intcon1Written
  rw [Bool.and_comm]
  split
  · rename_i hblocked
    rw [hblocked, Bool.or_true, getLsbD_putBit, if_pos (by decide)]
  · rename_i hfree
    rw [Bool.eq_false_iff.mpr hfree, Bool.or_false, hmask]

theorem swWrite_intcon1_intcon1 (v : Word) (s : State) : (swWrite .intcon1 v s).intcon1 = intcon1Written s v := by
  simp only [swWrite, dropSkid_intcon1]

/-- A skid dropped is that of its own trap. -/
theorem dropSkid_frame (t : Trap) (s : State) :
    { dropSkid t s with skidStk := s.skidStk, skidMath := s.skidMath, skidDmac := s.skidDmac } = s := by
  unfold dropSkid
  split
  · rfl
  · cases t <;> rfl

/-- What a write of INTCON1 can change put back to what it is in `s`. -/
def putBackTraps (s t : State) : State :=
  { t with intcon1 := s.intcon1, skidStk := s.skidStk, skidMath := s.skidMath, skidDmac := s.skidDmac }

theorem putBackTraps_dropSkid (s : State) (u : Trap) (t : State) :
    putBackTraps s (dropSkid u t) = putBackTraps s t := by
  rw [← congrArg (putBackTraps s) (dropSkid_frame u t)]
  rfl

theorem swWrite_intcon1_frame (v : Word) (s : State) : putBackTraps s (swWrite .intcon1 v s) = s := by
  rw [swWrite, putBackTraps_dropSkid, putBackTraps_dropSkid, putBackTraps_dropSkid]
  rfl

/-- Each skid after a write of INTCON1: dropped where its trap is no longer pending (60 R226; log 9). -/
theorem skidLeft_swWrite_intcon1 (v : Word) (s : State) (t : Trap) :
    skidLeft t (swWrite .intcon1 v s)
      = if t.hard = false ∧ trapPending t (swWrite .intcon1 v s) = false then 0 else skidLeft t s := by
  have hstored : skidLeft t { s with intcon1 := intcon1Written s v } = skidLeft t s := by cases t <;> rfl
  simp only [swWrite, skidLeft_dropSkid, trapPending_dropSkid, hstored]
  cases t <;> simp [Trap.hard]

/-- Settles O47: the bits of the word written, and each skid by its trap's status bit afterwards. -/
theorem writeIntcon1 : Obligations.WriteIntcon1 := by
  intro v s
  refine ⟨fun i h0 h4 => ?_, ?_, ?_, fun t hp => ?_, fun t hp => ?_, swWrite_intcon1_frame v s⟩
  · rw [swWrite_intcon1_intcon1, getLsbD_intcon1Written s v h0 h4]
  · rw [readReg, BitVec.getLsbD_and]
    exact Bool.and_false _
  · rw [swWrite_intcon1_intcon1]
    exact getLsbD_intcon1Written_mathErr s v
  · rw [skidLeft_swWrite_intcon1]
    cases hh : t.hard with
    | true => simp only [Bool.true_eq_false, false_and, if_false, skidLeft_hard t s hh]
    | false => rw [if_pos ⟨rfl, hp⟩]
  · rw [skidLeft_swWrite_intcon1, if_neg]
    rw [hp]
    exact fun hc => Bool.noConfusion hc.2

theorem extractLsb'_mergeByte_same (high : Bool) (b : Byte) (old : Word) :
    (mergeByte high b old).extractLsb' (if high then 8 else 0) 8 = b := by
  apply BitVec.eq_of_getLsbD_eq
  intro i hi
  cases high <;>
    simp only [mergeByte, if_true, if_false, Bool.false_eq_true, BitVec.getLsbD_extractLsb', BitVec.getLsbD_append] <;>
    interval_cases i <;> simp

theorem extractLsb'_mergeByte_other (high : Bool) (b : Byte) (old : Word) :
    (mergeByte high b old).extractLsb' (if high then 0 else 8) 8 = old.extractLsb' (if high then 0 else 8) 8 := by
  apply BitVec.eq_of_getLsbD_eq
  intro i hi
  cases high <;>
    simp only [mergeByte, if_true, if_false, Bool.false_eq_true, BitVec.getLsbD_extractLsb', BitVec.getLsbD_append] <;>
    interval_cases i <;> simp

/-- Settles O50: W15 is stored even, SPLIM whole or by halves. -/
theorem writeW15AndSplim : Obligations.WriteW15AndSplim := fun v b high s =>
  ⟨sp_setSp v s, rfl, rfl, rfl, extractLsb'_mergeByte_same high b s.splim, extractLsb'_mergeByte_other high b s.splim⟩

/-! ### Software writes of the flag, enable and priority registers -/

/-- A flag after a software write of its register (11 R71, R73). -/
theorem flagOf_swWrite (v : Word) (s : State) (q : Source) :
    flagOf (swWrite (.ifs (Source.flagReg q)) v s) q = (v.getLsbD (q.val % 16) && sourceImplemented s.params q) := by
  have hmask := getLsbD_flagMask s.params q
  simp only [flagOf, ifsRead, swWrite, Fin.getElem_fin, Vector.getElem_set_self, Source.flagReg, and_and_self,
    BitVec.getLsbD_and, hmask]

/-- An enable bit after a software write of its register (11 R71, R75). -/
theorem enableOf_swWrite (v : Word) (s : State) (q : Source) :
    enableOf (swWrite (.iec (Source.flagReg q)) v s) q = (v.getLsbD (q.val % 16) && sourceImplemented s.params q) := by
  have hmask := getLsbD_flagMask s.params q
  simp only [enableOf, iecRead, swWrite, Fin.getElem_fin, Vector.getElem_set_self, Source.flagReg, and_and_self,
    BitVec.getLsbD_and, hmask]

/-- A priority after a software write of its register (11 R71, R77). -/
theorem priorityOf_swWrite (v : Word) (s : State) (q : Source) :
    priorityOf (swWrite (.ipc (Source.priorityReg q)) v s) q
      = if sourceImplemented s.params q then v.extractLsb' (4 * (q.val % 4)) 3 else 0#3 := by
  apply BitVec.eq_of_getLsbD_eq
  intro i hi
  have hmask := getLsbD_priorityMask s.params q hi
  have hread : ipcRead (swWrite (.ipc (Source.priorityReg q)) v s) (Source.priorityReg q)
      = v &&& priorityMask s.params (q.val / 4) := by
    simp only [ipcRead, swWrite, Fin.getElem_fin, Vector.getElem_set_self, Source.priorityReg, and_and_self]
  rw [priorityOf, hread, BitVec.getLsbD_extractLsb', BitVec.getLsbD_and, hmask]
  cases sourceImplemented s.params q <;> simp [hi]

/-- Bit 3 of each field of an IPC register is not implemented (11 R77). -/
theorem getLsbD_priorityMask_three (p : Params) (n : Nat) (k : Fin 4) :
    (priorityMask p n).getLsbD (4 * k.val + 3) = false := by
  have hfield : ∀ b : Bool, (if b then 7#4 else 0#4).getLsbD 3 = false := by decide
  simp only [priorityMask, BitVec.getLsbD_append]
  fin_cases k <;> exact hfield _

theorem getLsbD_readReg_ipc_three (s : State) (n : Fin 30) (k : Fin 4) :
    (readReg (.ipc n) s).getLsbD (4 * k.val + 3) = false := by
  rw [readReg, ipcRead, BitVec.getLsbD_and, getLsbD_priorityMask_three, Bool.and_false]

/-- No source has a flag or enable bit above bit 5 of the last registers (11 R72). -/
theorem extractLsb'_flagMask_last (p : Params) (v : Word) : (v &&& flagMask p 7).extractLsb' 6 10 = 0#10 := by
  apply BitVec.eq_of_getLsbD_eq
  intro i hi
  have habsent : p.implemented.getLsbD (16 * 7 + (6 + i)) = false := BitVec.getLsbD_of_ge _ _ (by omega)
  rw [BitVec.getLsbD_extractLsb', BitVec.getLsbD_and, flagMask, BitVec.getLsbD_extractLsb', habsent, Bool.and_false,
    Bool.and_false, Bool.and_false, BitVec.getLsbD_zero]

theorem intReady_of_unimplemented {s : State} {q : Source} (h : sourceImplemented s.params q = false) :
    intReady s q = false := by
  simp only [intReady, intReq, h, Bool.false_and]

/-- Another element of a vector. -/
theorem getElem_set_of_ne {α : Type} {k : Nat} (xs : Vector α k) (v : α) {n m : Fin k} (h : m ≠ n) :
    (xs.set n.val v n.isLt)[m] = xs[m] :=
  Vector.getElem_set_ne n.isLt m.isLt fun he => h (Fin.ext he.symm)

/-- Settles O49: what each register reads after the write, and that no other field is touched. -/
theorem writeSourceRegisters : Obligations.WriteSourceRegisters := by
  intro v s q
  refine ⟨fun h => ⟨?_, ?_, ?_⟩, fun h => ⟨?_, ?_, ?_, intReady_of_unimplemented h⟩, rfl, rfl, rfl,
    fun n m => ⟨rfl, rfl, fun hne => ⟨getElem_set_of_ne s.ifs _ hne, getElem_set_of_ne s.iec _ hne⟩⟩,
    fun n m => ⟨rfl, fun hne => getElem_set_of_ne s.ipc _ hne, getLsbD_readReg_ipc_three _ n⟩,
    extractLsb'_flagMask_last s.params _, extractLsb'_flagMask_last s.params _⟩
  · rw [flagOf_swWrite, h, Bool.and_true]
  · rw [enableOf_swWrite, h, Bool.and_true]
  · rw [priorityOf_swWrite, h, if_pos rfl]
  · rw [flagOf_swWrite, h, Bool.and_false]
  · rw [enableOf_swWrite, h, Bool.and_false]
  · rw [priorityOf_swWrite, h, if_neg Bool.false_ne_true]

/-! ### Addresses -/

theorem regAt_ifs (p : Params) (n : Fin 8) : regAt p (0x0084 + 2 * n.val) = some (.ifs n) := by
  have hn := n.isLt
  have hindex : (0x0084 + 2 * n.val - 0x0084) / 2 = n.val := by omega
  rw [regAt, if_neg (by omega), if_neg (by omega), dif_pos ⟨by omega, by omega⟩]
  exact congrArg (some ∘ Reg.ifs) (Fin.ext hindex)

theorem regAt_iec (p : Params) (n : Fin 8) : regAt p (0x0094 + 2 * n.val) = some (.iec n) := by
  have hn := n.isLt
  have hindex : (0x0094 + 2 * n.val - 0x0094) / 2 = n.val := by omega
  rw [regAt, if_neg (by omega), if_neg (by omega), dif_neg (by omega), dif_pos ⟨by omega, by omega⟩]
  exact congrArg (some ∘ Reg.iec) (Fin.ext hindex)

theorem regAt_ipc (p : Params) (n : Fin 30) : regAt p (0x00A4 + 2 * n.val) = some (.ipc n) := by
  have hn := n.isLt
  have hindex : (0x00A4 + 2 * n.val - 0x00A4) / 2 = n.val := by omega
  rw [regAt, if_neg (by omega), if_neg (by omega), dif_neg (by omega), dif_neg (by omega),
    dif_pos ⟨by omega, by omega⟩]
  exact congrArg (some ∘ Reg.ipc) (Fin.ext hindex)

/-- A register stands at the even address that names it. -/
theorem placeOf_of_regAt {s : State} {a : Nat} {r : Reg} (heven : a % 2 = 0) (h : regAt s.params a = some r) :
    placeOf s a = .reg r := by
  simp only [placeOf, heven, Nat.sub_zero, h]

/-- Settles O51: the addresses of Table 6-2 are even and come before `SFR_ADDR_CPU`. -/
theorem registerAddresses : Obligations.RegisterAddresses := fun s =>
  ⟨placeOf_of_regAt rfl rfl, placeOf_of_regAt rfl rfl, fun n => placeOf_of_regAt (by omega) (regAt_ifs s.params n),
    fun n => placeOf_of_regAt (by omega) (regAt_iec s.params n),
    fun n => placeOf_of_regAt (by omega) (regAt_ipc s.params n)⟩

end Sys2Proof.Machine

/-! PROOFS. What no ordinary instruction can do, and what an address error holds back: IPL3, the DISI latch, program
memory, and the data writes of an instruction (20_memory.md R123, R136; 40 R165, R178; log 5, log 18). -/

namespace Sys2Proof.Machine

/-! ### What the operations of an ordinary instruction leave -/

/-- `t` has the program memory and parameters of `s`, and neither IPL3 nor the DISI latch is set in `t` alone. -/
structure Restrained (s t : State) : Prop where
  prog : t.prog = s.prog
  params : t.params = s.params
  ipl3 : ipl3 s = false → ipl3 t = false
  latch : s.disiLatch = false → t.disiLatch = false

theorem Restrained.refl (s : State) : Restrained s s := ⟨rfl, rfl, id, id⟩

theorem Restrained.trans {s t u : State} (h : Restrained s t) (h' : Restrained t u) : Restrained s u :=
  ⟨h'.prog.trans h.prog, h'.params.trans h.params, h'.ipl3 ∘ h.ipl3, h'.latch ∘ h.latch⟩

/-- An update that leaves the four fields. -/
theorem Restrained.of_eq {s t : State} (hprog : t.prog = s.prog) (hparams : t.params = s.params)
    (hcorcon : t.corcon = s.corcon) (hlatch : t.disiLatch = s.disiLatch) : Restrained s t :=
  ⟨hprog, hparams, fun h => (congrArg (BitVec.getLsbD · 3) hcorcon).trans h, hlatch.trans⟩

theorem restrained_writeW (i : Fin 16) (v : Word) (s : State) : Restrained s (writeW i v s) := by
  unfold writeW
  split
  · exact .of_eq rfl rfl rfl rfl
  · exact .of_eq rfl rfl rfl rfl

/-- Software clears IPL3 and the latch and sets neither (40 R165, R178). -/
theorem restrained_swWrite (r : Reg) (v : Word) (s : State) : Restrained s (swWrite r v s) := by
  cases r with
  | corcon =>
    refine ⟨rfl, rfl, fun h => ?_, id⟩
    exact (ipl3_corconWritten s v).trans (by rw [show s.corcon.getLsbD 3 = false from h, Bool.false_and])
  | disicnt => exact ⟨rfl, rfl, id, fun h => by simp only [swWrite, h, Bool.false_and]⟩
  | intcon1 => exact .of_eq (by simp [swWrite]) (by simp [swWrite]) (by simp [swWrite]) (by simp [swWrite])
  | w i => exact restrained_writeW i v s
  | sr => exact .of_eq rfl rfl rfl rfl
  | splim => exact .of_eq rfl rfl rfl rfl
  | rcon => exact .of_eq rfl rfl rfl rfl
  | osccon => exact .of_eq rfl rfl rfl rfl
  | intcon2 => exact .of_eq rfl rfl rfl rfl
  | ifs n => exact .of_eq rfl rfl rfl rfl
  | iec n => exact .of_eq rfl rfl rfl rfl
  | ipc n => exact .of_eq rfl rfl rfl rfl

/-- A byte write is a write of the whole register, a write of SPLIM that does not arm it, or nothing (10 R62). -/
theorem swWriteByte_cases (r : Reg) (high : Bool) (b : Byte) (s : State) :
    (∃ v, swWriteByte r high b s = swWrite r v s) ∨ (∃ v, swWriteByte r high b s = { s with splim := v }) ∨
    swWriteByte r high b s = s := by
  cases r with
  | splim => exact .inr (.inl ⟨_, rfl⟩)
  | rcon =>
    cases high with
    | true => exact .inl ⟨_, rfl⟩
    | false => exact .inr (.inr rfl)
  | osccon =>
    cases high with
    | true => exact .inr (.inr rfl)
    | false => exact .inl ⟨_, rfl⟩
  | _ => exact .inl ⟨_, rfl⟩

theorem restrained_swWriteByte (r : Reg) (high : Bool) (b : Byte) (s : State) :
    Restrained s (swWriteByte r high b s) := by
  rcases swWriteByte_cases r high b s with ⟨v, h⟩ | ⟨v, h⟩ | h
  · exact h ▸ restrained_swWrite r v s
  · exact h ▸ .of_eq rfl rfl rfl rfl
  · exact h.symm ▸ .refl s

theorem restrained_deviceReset (cause : ResetCause) (s : State) : Restrained s (deviceReset cause s) :=
  ⟨rfl, rfl, fun _ => by simp [Machine.ipl3, deviceReset], fun _ => rfl⟩

theorem restrained_raiseHard (t : Trap) (s : State) : Restrained s (raiseHard t s).state := by
  rcases raiseHard_cases t s with h | ⟨b, h⟩
  · rw [h]
    exact restrained_deviceReset .trapConflict s
  · rw [h]
    exact .of_eq rfl rfl rfl rfl

theorem restrained_raiseSoft (t : Trap) (s : State) : Restrained s (raiseSoft t s) :=
  .of_eq (raiseSoft_prog t s) (raiseSoft_params t s) (raiseSoft_corcon t s) (raiseSoft_disiLatch t s)

/-- The primitive operations of ordinary instructions keep it. -/
theorem restrained_closed (s : State) : Closed (Restrained s) where
  write r v _ h := h.trans (restrained_swWrite r v _)
  writeByte r high b _ h := h.trans (restrained_swWriteByte r high b _)
  ram _ _ _ h := h.trans (.of_eq rfl rfl rfl rfl)
  soft t _ h := h.trans (restrained_raiseSoft t _)
  hard t _ h := h.trans (restrained_raiseHard t _)
  detail _ _ _ h := h.trans (.of_eq rfl rfl rfl rfl)
  stackPointer _ _ h := h.trans (.of_eq rfl rfl rfl rfl)
  counter _ _ h := h.trans (.of_eq rfl rfl rfl rfl)
  status _ _ h := h.trans (.of_eq rfl rfl rfl rfl)
  delivered _ _ h := h.trans (.of_eq rfl rfl rfl rfl)
  drawn _ h := h.trans (.of_eq rfl rfl rfl rfl)
  accumulatorA _ _ h := h.trans (.of_eq rfl rfl rfl rfl)
  accumulatorB _ _ h := h.trans (.of_eq rfl rfl rfl rfl)

theorem restrained_runOrdinary (o : OrdInstr) (s : State) : Restrained s (runOrdinary o s) :=
  (restrained_closed s).runOrdinary o (.refl s)

/-- Settles O54. -/
theorem softwareNeverSetsIpl3 : Obligations.SoftwareNeverSetsIpl3 := fun o s => (restrained_runOrdinary o s).ipl3

/-- Settles O55. -/
theorem noOrdinaryInstructionSetsTheLatch : Obligations.NoOrdinaryInstructionSetsTheLatch :=
  fun o s => (restrained_runOrdinary o s).latch

/-! ### Program memory and the parameters -/

/-- Program memory and the parameters are the same. -/
def SameProgram (s t : State) : Prop := t.prog = s.prog ∧ t.params = s.params

theorem SameProgram.trans {s t u : State} (h : SameProgram s t) (h' : SameProgram t u) : SameProgram s u :=
  ⟨h'.1.trans h.1, h'.2.trans h.2⟩

theorem Restrained.sameProgram {s t : State} (h : Restrained s t) : SameProgram s t := ⟨h.prog, h.params⟩

theorem sameProgram_setFlag (q : Source) (s : State) : SameProgram s (setFlag q s) := by
  unfold setFlag
  split <;> exact ⟨rfl, rfl⟩

theorem sameProgram_pinEvent (n : Fin 5) (level : Bool) (s : State) : SameProgram s (pinEvent n level s) := by
  have hframe := pinEvent_frame n level s
  exact ⟨congrArg (·.prog) hframe, congrArg (·.params) hframe⟩

theorem sameProgram_dmaWrite (a : Word) (v : Byte) (s : State) : SameProgram s (dmaWrite a v s) := by
  unfold dmaWrite
  split <;> exact ⟨rfl, rfl⟩

theorem sameProgram_deliver (e : EnvEvent) (s : State) : SameProgram s (deliver e s) := by
  cases e with
  | setFlag q => exact sameProgram_setFlag q s
  | pin n level => exact sameProgram_pinEvent n level s
  | oscillatorFailure => exact (restrained_raiseHard .oscFail { s with cf := true }).sameProgram
  | clockFail value => exact ⟨rfl, rfl⟩
  | dmaCollision => exact (restrained_raiseSoft .dmacErr s).sameProgram
  | dmaWrite a v => exact sameProgram_dmaWrite a v s
  | reset cause => exact (restrained_deviceReset cause.cause s).sameProgram

theorem sameProgram_deliverAll : ∀ (es : List EnvEvent) (s : State), SameProgram s (deliverAll es s)
  | [], _ => ⟨rfl, rfl⟩
  | e :: rest, s => (sameProgram_deliver e s).trans (sameProgram_deliverAll rest (deliver e s))

theorem sameProgram_beginStep (s : State) : SameProgram s (beginStep s) := by
  have htaken : SameProgram s (takeEvents s) := by
    unfold takeEvents
    split
    · exact ⟨rfl, rfl⟩
    · exact sameProgram_deliverAll _ { s with events := _ }
  exact htaken

theorem sameProgram_endInstruction (cycles : Nat) (s : State) : SameProgram s (endInstruction cycles s) := by
  have hframe := endInstruction_frame cycles s
  exact ⟨congrArg (·.prog) hframe, congrArg (·.params) hframe⟩

theorem sameProgram_endEntry (s : State) : SameProgram s (endEntry s) :=
  ⟨countDisi_keeps (·.prog) (fun _ _ _ => rfl) 4 s, countDisi_keeps (·.params) (fun _ _ _ => rfl) 4 s⟩

/-- Entry pushes its frame wherever W15 points, and writes the priority and the PC. -/
theorem sameProgram_takeException (v : Nat) (level : BitVec 4) (kind : Kind) (s : State) :
    SameProgram s (takeException v level kind s) := by
  have hclosed := restrained_closed (captureReturn s)
  have hpushed : SameProgram s (pushFrame (captureReturn s)) :=
    (hclosed.push _ _ (hclosed.push _ _ (.refl _))).sameProgram
  refine hpushed.trans ?_
  cases kind <;> exact ⟨rfl, rfl⟩

theorem sameProgram_popWord (s : State) : SameProgram s (popWord s).flow.state :=
  ((restrained_closed s).pop (.refl s)).sameProgram

theorem sameProgram_andThen {s : State} {f : Flow} {k : State → Flow} (hf : SameProgram s f.state)
    (hk : ∀ t, SameProgram t (k t).state) : SameProgram s (f.andThen k).state := by
  unfold Flow.andThen
  split
  · exact hf
  · exact hf.trans (hk f.state)

theorem sameProgram_exec {i : Instr} {s t : State} (h : exec i s = .next t) : SameProgram s t := by
  cases i with
  | disi lit14 => cases h; exact ⟨rfl, rfl⟩
  | retfie =>
    cases h
    exact sameProgram_andThen (sameProgram_popWord s) fun u =>
      sameProgram_andThen (sameProgram_popWord u) fun _ => ⟨rfl, rfl⟩
  | pwrsav lit1 => cases h; exact ⟨rfl, rfl⟩
  | reset => cases h; exact ⟨rfl, rfl⟩
  | goto target => cases h; exact ((restrained_closed s).branchLiteral target (.refl s)).sameProgram

theorem sameProgram_runInstruction {s t : State} (h : runInstruction s = .next t) : SameProgram s t := by
  rcases runInstruction_cases h with ⟨i, u, hexec, rfl⟩ | rfl | ⟨o, rest, _, rfl⟩
  · exact (sameProgram_exec hexec).trans (sameProgram_endInstruction _ u)
  · exact sameProgram_endInstruction _ (advancePc 2 s)
  · exact (restrained_runOrdinary o { s with ordinary := rest }).sameProgram.trans (sameProgram_endInstruction _ _)

theorem sameProgram_checkFetch (s : State) : SameProgram s (checkFetch s).state := by
  unfold checkFetch
  split
  · exact ⟨rfl, rfl⟩
  · exact (restrained_raiseHard .addrErr s).sameProgram

theorem sameProgram_runBoundary {s t : State} (h : runBoundary s = .next t) : SameProgram s t := by
  have hcheck := sameProgram_checkFetch s
  rcases runBoundary_cases h with rfl | ⟨e, rfl⟩ | hrun
  · exact hcheck
  · exact hcheck.trans ((sameProgram_takeException _ _ _ _).trans (sameProgram_endEntry _))
  · exact hcheck.trans (sameProgram_runInstruction hrun)

/-- Settles O56, by cases on what a step can do. -/
theorem programMemoryIsConstant : Obligations.ProgramMemoryIsConstant := by
  intro s t hstep
  have hbegin := sameProgram_beginStep s
  rcases step_cases hstep with rfl | hrun
  · exact hbegin
  · exact hbegin.trans (sameProgram_runBoundary (s := { beginStep s with power := .run }) hrun)

/-! ### What held actions can change (20_memory.md R136) -/

/-- What the actions of an instruction may change even with their data writes held back, put back to what it is in
`s`: the W registers, the accumulators, SR, INTCON1, the skids, `bus`, the counter of free values and `stalled`. -/
def putBackHeld (s t : State) : State :=
  { t with
    w := s.w, w15 := s.w15, accA := s.accA, accB := s.accB, sr := s.sr, intcon1 := s.intcon1, skidStk := s.skidStk,
    skidMath := s.skidMath, skidDmac := s.skidDmac, bus := s.bus, draws := s.draws, stalled := s.stalled }

/-- `t` comes from `s` without a data write: of SR it has IPL<2:0>, and of INTCON1 no bit is lost. -/
structure Held (s t : State) : Prop where
  frame : putBackHeld s t = s
  ipl : ipl t = ipl s
  intcon1 : ∀ i : Nat, s.intcon1.getLsbD i = true → t.intcon1.getLsbD i = true

theorem Held.refl (s : State) : Held s s := ⟨rfl, rfl, fun _ => id⟩

theorem Held.trans {s t u : State} (h : Held s t) (h' : Held t u) : Held s u where
  frame := by
    rw [show putBackHeld s u = putBackHeld s (putBackHeld t u) from rfl, h'.frame]
    exact h.frame
  ipl := h'.ipl.trans h.ipl
  intcon1 i := h'.intcon1 i ∘ h.intcon1 i

theorem Held.keeps {s t : State} (h : Held s t) {α : Type} (f : State → α) (hf : f (putBackHeld s t) = f t) :
    f t = f s := by
  rw [← hf, h.frame]

theorem putBit_true_mono {v : Word} {i j : Nat} (h : v.getLsbD j = true) : (putBit v i true).getLsbD j = true := by
  rw [getLsbD_putBit]
  split
  · rfl
  · exact h

theorem Held.bit (i : Nat) (b : Bool) (s : State) : Held s { setIntcon1Bit i s with stalled := b } :=
  ⟨rfl, rfl, fun _ => putBit_true_mono⟩

theorem Held.raiseSoft (t : Trap) (s : State) : Held s (raiseSoft t s) where
  frame := by
    have hframe := congrArg (putBackHeld s) (raiseSoft_frame t s)
    exact hframe
  ipl := by
    rw [Machine.ipl, raiseSoft_sr]
    rfl
  intcon1 i h := by
    rw [raiseSoft_intcon1]
    exact putBit_true_mono h

theorem Held.raiseMath (detail : Nat) (s : State) : Held s (raiseMath detail s) :=
  (Held.bit detail s.stalled s).trans (.raiseSoft .mathErr _)

theorem Held.raiseMathIf (enabled : Bool) (detail : Nat) (s : State) : Held s (raiseMathIf enabled detail s) := by
  cases enabled with
  | true => exact .raiseMath detail s
  | false => exact .refl s

theorem Held.setSp (v : Word) (s : State) : Held s (setSp v s) := ⟨rfl, rfl, fun _ => id⟩

theorem Held.setBus (v : Word) (s : State) : Held s (setBus v s) := ⟨rfl, rfl, fun _ => id⟩

theorem Held.countDraw (s : State) : Held s (countDraw s) := ⟨rfl, rfl, fun _ => id⟩

theorem Held.setAcc (x : AccName) (v : Acc) (s : State) : Held s (setAcc x v s) := by
  cases x <;> exact ⟨rfl, rfl, fun _ => id⟩

theorem Held.setSr {v : Word} {s : State} (h : v.extractLsb' 5 3 = s.sr.extractLsb' 5 3) : Held s (setSr v s) :=
  ⟨rfl, h, fun _ => id⟩

theorem Held.writeW (i : Fin 16) (v : Word) (s : State) : Held s (writeW i v s) := by
  unfold Machine.writeW
  split
  · exact ⟨rfl, rfl, fun _ => id⟩
  · exact .setSp v s

theorem Held.stackCheck (full : Int) (ea : Word) (s : State) : Held s (stackCheck full ea s) := by
  unfold Machine.stackCheck
  split
  · exact .raiseSoft .stkErr s
  · exact .refl s

theorem Held.eaCheck (ea : EA) (before s : State) : Held s (eaCheck ea before s) := by
  unfold Machine.eaCheck
  split
  · exact .raiseSoft .stkErr s
  · exact .refl s

/-- OA and OB are none of IPL<2:0>. -/
theorem extractLsb'_ipl_putBit (v : Word) {i : Nat} (hi : 8 ≤ i) (b : Bool) :
    (putBit v i b).extractLsb' 5 3 = v.extractLsb' 5 3 := by
  apply BitVec.eq_of_getLsbD_eq
  intro j hj
  rw [BitVec.getLsbD_extractLsb', BitVec.getLsbD_extractLsb', getLsbD_putBit, if_neg (by omega)]

theorem Held.accAction (x : AccName) (carry31 carry39 : Bool) (v : Acc) (s : State) :
    Held s (accAction x carry31 carry39 v s) := by
  have hoverflow : Held (Machine.setAcc x v s) (setOverflow x carry31 (Machine.setAcc x v s)) := by
    cases x <;> exact .setSr (extractLsb'_ipl_putBit _ (by decide) carry31)
  rw [accAction_eq]
  exact (Held.setAcc x v s).trans (hoverflow.trans ((Held.raiseMathIf _ _ _).trans (.raiseMathIf _ _ _)))

theorem Held.sftacAction (x : AccName) (amount : Int) (v : Acc) (s : State) : Held s (sftacAction x amount v s) := by
  unfold Machine.sftacAction
  split
  · exact .raiseMath 7 s
  · exact .setAcc x v s

/-- RA, N, OV, Z and C, written by the CPU, are none of IPL<2:0> (10 R27). -/
theorem extractLsb'_ipl_aluStatus (sr : Word) (v : BitVec 5) :
    (sr.extractLsb' 5 11 ++ v).extractLsb' 5 3 = sr.extractLsb' 5 3 := by
  apply BitVec.eq_of_getLsbD_eq
  intro i hi
  simp only [BitVec.getLsbD_extractLsb', BitVec.getLsbD_append]
  interval_cases i <;> simp

/-- SR<13:8>, written by the CPU, is none of IPL<2:0> (10 R27). -/
theorem extractLsb'_ipl_dspStatus (sr : Word) (v : BitVec 6) :
    (sr.extractLsb' 14 2 ++ (v ++ sr.extractLsb' 0 8)).extractLsb' 5 3 = sr.extractLsb' 5 3 := by
  apply BitVec.eq_of_getLsbD_eq
  intro i hi
  simp only [BitVec.getLsbD_extractLsb', BitVec.getLsbD_append]
  interval_cases i <;> simp

/-- A write held back writes at most a W register, which has no data address (log 18). -/
theorem Held.inhibited {r : Reg} {w s : State} (hw : ∀ i, r = .w i → Held s w) : Held s (inhibited true r w s) := by
  cases r with
  | w i => exact hw i rfl
  | _ => exact .refl s

/-! ### Held actions one by one -/

/-- Unless a device reset cut it off, the run made no data write, and an address error of it is pending. -/
def HeldRun (s : State) (r : Run) : Prop :=
  r.reset = false → Held s r.state ∧ (r.addrErr = true → trapPending .addrErr r.state = true)

theorem heldRun_ok {s t : State} (h : Held s t) : HeldRun s (Run.ok t) := fun _ => ⟨h, fun he => by cases he⟩

/-- A hard trap raised without a device reset is pending. -/
theorem held_raiseHard {t : Trap} {s : State} (h : (raiseHard t s).reset = false) :
    Held s (raiseHard t s).state ∧ trapPending t (raiseHard t s).state = true := by
  rcases raiseHard_cases t s with hr | ⟨b, hr⟩
  · rw [hr] at h
    cases h
  · rw [hr]
    exact ⟨.bit t.statusBit b s, trapPending_setIntcon1Bit_self t s⟩

theorem heldRun_addressError {s t : State} (h : Held s t) : HeldRun s (Run.addressError t) := fun hr =>
  ⟨h.trans (held_raiseHard (t := .addrErr) hr).1, fun _ => (held_raiseHard (t := .addrErr) hr).2⟩

theorem HeldRun.after {s t : State} {r : Run} (h : Held s t) (hr : HeldRun t r) : HeldRun s r := fun hreset =>
  ⟨h.trans (hr hreset).1, (hr hreset).2⟩

theorem heldRun_load (ea : EA) (width : Width) (s : State) : HeldRun s (loadAction ea width s) := by
  have hchecked (v : Word) : Held s (setBus v (eaCheck ea s s)) := (Held.eaCheck ea s s).trans (.setBus v _)
  unfold loadAction
  dsimp only
  split
  · exact heldRun_addressError (hchecked _)
  · cases width <;> exact heldRun_ok (hchecked _)

theorem heldRun_store (ea : EA) (width : Width) (v : Word) (s : State) :
    HeldRun s (storeAction true ea width v s) := by
  unfold storeAction
  dsimp only
  split
  · exact heldRun_addressError (.eaCheck ea s s)
  · exact heldRun_ok (.eaCheck ea s s)

theorem heldRun_modifyBit (ea : EA) (i : Fin 16) (b : Bool) (s : State) :
    HeldRun s (modifyBitAction true ea i b s) := by
  unfold modifyBitAction
  dsimp only
  split
  · exact heldRun_addressError (.eaCheck ea s s)
  · exact heldRun_ok (.eaCheck ea s s)

theorem heldRun_fetch (implemented : State → Nat → Bool) (ea : EA) (s : State) :
    HeldRun s (fetchAction implemented ea s) := by
  have hchecked (v : Word) : Held s (setBus v (eaCheck ea s s)) := (Held.eaCheck ea s s).trans (.setBus v _)
  unfold fetchAction
  dsimp only
  split
  · exact heldRun_addressError (hchecked _)
  · exact heldRun_ok (hchecked _)

theorem heldRun_push (r : Reg) (s : State) : HeldRun s (pushAction true r s) :=
  heldRun_ok ((Held.stackCheck _ _ s).trans (.setSp _ _))

/-- A pop reads, and raises the address error where it reads nothing (41 R197). -/
theorem held_popWord {s : State} (h : (popWord s).flow.reset = false) :
    Held s (popWord s).flow.state ∧
    ((popWord s).absent = true → trapPending .addrErr (popWord s).flow.state = true) := by
  have hchecked : Held s (lowered s) :=
    (Held.setSp _ s).trans ((Held.countDraw _).trans (.stackCheck _ _ _))
  by_cases hplace : placeOf s (sp s - 2#16).toNat = .absent
  · rw [popWord_absent hplace] at h ⊢
    obtain ⟨hheld, hpending⟩ := held_raiseHard (t := .addrErr) h
    exact ⟨hchecked.trans hheld, fun _ => hpending⟩
  · rw [popWord_present hplace]
    exact ⟨hchecked, fun he => by cases he⟩

/-- A status bit of INTCON1 is not lost by what held actions do. -/
theorem Held.pending {s t : State} (h : Held s t) {u : Trap} (hp : trapPending u s = true) : trapPending u t = true :=
  h.intcon1 u.statusBit hp

theorem heldRun_pop (r : Reg) (s : State) : HeldRun s (popAction true r s) := by
  unfold popAction
  dsimp only
  split
  · exact fun h => by cases h
  · rename_i hreset
    obtain ⟨hheld, hpending⟩ := held_popWord (Bool.eq_false_iff.mpr hreset)
    have hwritten : Held (popWord s).flow.state
        (inhibited true r (swWrite r (popWord s).value (popWord s).flow.state) (popWord s).flow.state) :=
      .inhibited fun i hi => hi ▸ .writeW i _ _
    exact fun _ => ⟨hheld.trans hwritten, fun he => hwritten.pending (hpending he)⟩

/-- One action of an instruction whose data writes are held back. -/
theorem heldRun_act (action : Action) (s : State) : HeldRun s (act true action s) := by
  refine HeldRun.after (.countDraw s) ?_
  cases action with
  | write r v => exact heldRun_ok (.inhibited fun i hi => hi ▸ .writeW i _ _)
  | writeByte r high v => exact heldRun_ok (.inhibited fun i hi => hi ▸ .writeW i _ _)
  | writeBit r i v => exact heldRun_ok (.inhibited fun j hj => hj ▸ .writeW j _ _)
  | load ea width => exact heldRun_load ea width _
  | store ea width v => exact heldRun_store ea width _ _
  | modifyBit ea i v => exact heldRun_modifyBit ea i v _
  | fetchX ea => exact heldRun_fetch xImplemented ea _
  | fetchY ea => exact heldRun_fetch yImplemented ea _
  | push r => exact heldRun_push r _
  | pop r => exact heldRun_pop r _
  | accOp x carry31 carry39 v => exact heldRun_ok (.accAction x carry31 carry39 v _)
  | sftac x amount v => exact heldRun_ok (.sftacAction x amount v _)
  | divideByZero => exact heldRun_ok (.raiseMath 6 _)
  | aluStatus v => exact heldRun_ok (.setSr (extractLsb'_ipl_aluStatus _ v))
  | dspStatus v => exact heldRun_ok (.setSr (extractLsb'_ipl_dspStatus _ v))

/-! ### An instruction that raises an address error -/

theorem actAll_cons_of_reset {inhibit : Bool} {action : Action} {rest : List Action} {s : State}
    (h : (act inhibit action s).reset = true) : actAll inhibit (action :: rest) s = act inhibit action s := by
  simp only [actAll, h, if_true]

theorem actAll_cons {inhibit : Bool} {action : Action} {rest : List Action} {s : State}
    (h : (act inhibit action s).reset = false) :
    actAll inhibit (action :: rest) s
      = ⟨(actAll inhibit rest (act inhibit action s).state).state,
          (actAll inhibit rest (act inhibit action s).state).reset,
          (act inhibit action s).addrErr || (actAll inhibit rest (act inhibit action s).state).addrErr⟩ := by
  simp only [actAll, h, if_false, Bool.false_eq_true]

theorem heldRun_actAll : ∀ (acts : List Action) (s : State), HeldRun s (actAll true acts s)
  | [], s => heldRun_ok (.refl s)
  | action :: rest, s => by
    cases hreset : (act true action s).reset with
    | true =>
      rw [actAll_cons_of_reset hreset]
      exact heldRun_act action s
    | false =>
      rw [actAll_cons hreset]
      obtain ⟨hfirst, hpending⟩ := heldRun_act action s hreset
      intro hlater
      obtain ⟨hrest, hpending'⟩ := heldRun_actAll rest (act true action s).state hlater
      refine ⟨hfirst.trans hrest, fun he => ?_⟩
      rcases Bool.or_eq_true_iff.mp he with he | he
      · exact hrest.pending (hpending he)
      · exact hpending' he

theorem heldRun_heldEffects (acts : List Action) (s : State) : HeldRun s (heldEffects acts s) := by
  have hacts := heldRun_actAll acts s
  unfold heldEffects
  dsimp only
  split
  · exact hacts
  · rename_i hquiet
    have hreset : (actAll true acts s).reset = false := by
      cases hr : (actAll true acts s).reset with
      | true => exact absurd (by rw [hr, Bool.true_or]) hquiet
      | false => rfl
    exact heldRun_addressError (hacts hreset).1

theorem runOrdinary_of_effects {o : OrdInstr} {s : State}
    (h : (effects (o.succ.addressError s) o.acts s).reset = false) :
    runOrdinary o s = succeed o.succ (effects (o.succ.addressError s) o.acts s).state := by
  simp only [runOrdinary, h, if_false, Bool.false_eq_true]

/-- The effects of an instruction that raises an address error, by an access or its literal target, are held. -/
theorem heldRun_effects {branchError : Bool} {acts : List Action} {s : State}
    (h : (actAll false acts s).addrErr = true ∨ branchError = true) : HeldRun s (effects branchError acts s) := by
  cases branchError with
  | true => exact heldRun_actAll acts s
  | false =>
    rw [effects_of_access (h.resolve_right Bool.false_ne_true)]
    exact heldRun_heldEffects acts s

/-- Settles O53: the effects are held, and what `Held` keeps are the fields the statement names. -/
theorem addressErrorInhibitsWrites : Obligations.AddressErrorInhibitsWrites := by
  intro o s r herr hreset
  obtain ⟨hheld, hpending⟩ := heldRun_effects herr hreset
  refine ⟨fun a => hheld.keeps (ramByte · a) rfl, hheld.keeps (·.ifs) rfl, hheld.keeps (·.iec) rfl,
    hheld.keeps (·.ipc) rfl, hheld.keeps (·.intcon2) rfl, hheld.keeps (·.corcon) rfl, hheld.keeps (·.splim) rfl,
    hheld.keeps (·.splimArmed) rfl, hheld.keeps (·.disicnt) rfl, hheld.keeps (·.disiLatch) rfl, hheld.ipl,
    hheld.keeps (·.trapr) rfl, hheld.keeps (·.cf) rfl, hheld.intcon1, fun hbranch => ?_,
    runOrdinary_of_effects hreset⟩
  have haccess : (actAll false o.acts s).addrErr = true :=
    herr.resolve_right (by rw [hbranch]; exact Bool.false_ne_true)
  have hraised : r.addrErr = true := by
    have heffects : r = heldEffects o.acts s := by
      rw [← effects_of_access haccess, ← hbranch]
    rw [heffects] at hreset ⊢
    exact heldEffects_addrErr hreset
  exact ⟨hraised, hpending hraised⟩

end Sys2Proof.Machine

/-! PROOFS. Data accesses of ordinary instructions and of the DMA controller
(20_memory.md R125 to R138; 41_trap_raising_instructions.md R191, R195 to R197). -/

namespace Sys2Proof.Machine

/-! ### Addresses and their check -/

theorem addr_abs (s : State) (a : Word) : (EA.abs a).addr s = a := by
  rw [EA.addr, EA.full, BitVec.ofInt_natCast, BitVec.ofNat_toNat, BitVec.setWidth_eq]

/-- A property of the fields that the check of an address does not touch. -/
theorem eaCheck_keeps {α : Type} (f : State → α)
    (hf : ∀ (t : State) i k d, f { t with intcon1 := i, skidStk := k, draws := d } = f t)
    (ea : EA) (before s : State) : f (eaCheck ea before s) = f s := by
  unfold eaCheck
  split
  · exact raiseSoft_stk_keeps f hf s
  · rfl

/-- The status bit of the stack error after the check of an address formed from W15. -/
theorem eaCheck_w15_intcon1 (offset : Int) (before s : State) :
    (eaCheck (.w15 offset) before s).intcon1
      = if stackViolation before ((EA.w15 offset).full before) ((EA.w15 offset).addr before)
          then putBit s.intcon1 2 true else s.intcon1 := by
  unfold eaCheck
  rw [EA.viaW15, Bool.true_and]
  split
  · exact raiseSoft_intcon1 .stkErr s
  · rfl

/-- The condition of the check, in the words of 41 R191. -/
theorem stackViolation_full_iff {s : State} {full : Int} {ea : Word} :
    stackViolation s full ea = true ↔
      0xFFFF < full ∨ (s.splimArmed = true ∧ s.splim < ea) ∨ ea < 0x0800#16 := by
  rw [stackViolation, Bool.or_eq_true, Bool.or_eq_true, Bool.and_eq_true, decide_eq_true_iff, decide_eq_true_iff,
    decide_eq_true_iff, or_assoc]

theorem stackViolation_of_within {s : State} {full : Int} {ea : Word} (hfull : full ≤ 0xFFFF)
    (hlimit : s.splimArmed = false ∨ ea ≤ s.splim) (hbase : 0x0800#16 ≤ ea) : stackViolation s full ea = false := by
  rw [Bool.eq_false_iff, ne_eq, stackViolation_full_iff]
  rintro (hwrap | ⟨harmed, habove⟩ | hbelow)
  · omega
  · rcases hlimit with hoff | hle
    · rw [hoff] at harmed
      cases harmed
    · exact BitVec.not_lt.mpr hle habove
  · exact BitVec.not_lt.mpr hbase hbelow

/-! ### Accesses that reach something -/

theorem loadAction_byte {ea : EA} {s : State} (h : placeOf s (ea.addr s).toNat ≠ .absent) :
    loadAction ea .byte s
      = Run.ok (setBus (deliveredByte (readDataByte s (ea.addr s).toNat) s) (eaCheck ea s s)) := by
  have hreads : (misaligned .byte (ea.addr s) || placeOf s (ea.addr s).toNat == .absent) = false := by
    simpa [misaligned] using h
  simp only [loadAction, hreads, if_false, Bool.false_eq_true]

theorem loadAction_word {ea : EA} {s : State} (heven : (ea.addr s).getLsbD 0 = false)
    (h : placeOf s (ea.addr s).toNat ≠ .absent) :
    loadAction ea .word s = Run.ok (setBus (readDataWord s (ea.addr s).toNat) (eaCheck ea s s)) := by
  have hreads : (misaligned .word (ea.addr s) || placeOf s (ea.addr s).toNat == .absent) = false := by
    rw [misaligned, heven, Bool.false_or]
    simpa using h
  simp only [loadAction, hreads, if_false, Bool.false_eq_true]

theorem storeAction_byte (ea : EA) (v : Word) (s : State) :
    storeAction false ea .byte v s
      = Run.ok (eaCheck ea s (writeDataByte (ea.addr s).toNat (v.extractLsb' 0 8) s)) := rfl

theorem storeAction_word {ea : EA} {s : State} (heven : (ea.addr s).getLsbD 0 = false) (v : Word) :
    storeAction false ea .word v s = Run.ok (eaCheck ea s (writeDataWord (ea.addr s).toNat v s)) := by
  simp only [storeAction, misaligned, heven, if_false, Bool.false_eq_true]

theorem modifyBitAction_word {ea : EA} {s : State} (heven : (ea.addr s).getLsbD 0 = false)
    (h : placeOf s (ea.addr s).toNat ≠ .absent) (i : Fin 16) (b : Bool) :
    modifyBitAction false ea i b s = Run.ok (eaCheck ea s
      (writeDataWord (ea.addr s).toNat (putBit (readDataWord s (ea.addr s).toNat) i.val b) s)) := by
  have hreads : (misaligned .word (ea.addr s) || placeOf s (ea.addr s).toNat == .absent) = false := by
    rw [misaligned, heven, Bool.false_or]
    simpa using h
  simp only [modifyBitAction, hreads, if_false, Bool.false_eq_true]

theorem fetchAction_word {implemented : State → Nat → Bool} {ea : EA} {s : State}
    (heven : (ea.addr s).getLsbD 0 = false) (h : implemented s (ea.addr s).toNat = true) :
    fetchAction implemented ea s = Run.ok (setBus (readDataWord s (ea.addr s).toNat) (eaCheck ea s s)) := by
  simp only [fetchAction, misaligned, heven, h, Bool.not_true, Bool.or_self, if_false, Bool.false_eq_true]

/-! ### Accesses that raise the address error -/

theorem loadAction_of_error {ea : EA} {width : Width} {s : State}
    (h : misaligned width (ea.addr s) = true ∨ placeOf s (ea.addr s).toNat = .absent) :
    loadAction ea width s = Run.addressError (setBus (Config.openWord s.draws) (eaCheck ea s s)) := by
  have herror : (misaligned width (ea.addr s) || placeOf s (ea.addr s).toNat == .absent) = true := by
    rw [Bool.or_eq_true, beq_iff_eq]
    exact h
  simp only [loadAction, herror, if_true]

theorem storeAction_of_error {ea : EA} {s : State} (h : (ea.addr s).getLsbD 0 = true) (v : Word) :
    storeAction false ea .word v s = Run.addressError (eaCheck ea s s) := by
  simp only [storeAction, misaligned, h, if_true]

theorem modifyBitAction_of_error {ea : EA} {s : State}
    (h : (ea.addr s).getLsbD 0 = true ∨ placeOf s (ea.addr s).toNat = .absent) (i : Fin 16) (b : Bool) :
    modifyBitAction false ea i b s = Run.addressError (eaCheck ea s s) := by
  have herror : (misaligned .word (ea.addr s) || placeOf s (ea.addr s).toNat == .absent) = true := by
    rw [Bool.or_eq_true, beq_iff_eq]
    exact h
  simp only [modifyBitAction, herror, if_true]

theorem fetchAction_of_error {implemented : State → Nat → Bool} {ea : EA} {s : State}
    (h : (ea.addr s).getLsbD 0 = true ∨ implemented s (ea.addr s).toNat = false) :
    fetchAction implemented ea s = Run.addressError (setBus (Config.openWord s.draws) (eaCheck ea s s)) := by
  have herror : (misaligned .word (ea.addr s) || !implemented s (ea.addr s).toNat) = true := by
    rw [Bool.or_eq_true, Bool.not_eq_true']
    exact h
  simp only [fetchAction, herror, if_true]

/-- The address error of an access that meets no conflict and no equal level. -/
theorem addressError_of_free {s : State} (ho : trapPending .oscFail s = false) (hc : cpuIpl s < 13#4) :
    Run.addressError s = ⟨setIntcon1Bit 3 s, false, true⟩ := by
  rw [Run.addressError, raiseHard_addrErr ho hc]

/-! ### Bytes and words -/

theorem extractLsb'_deliveredByte (b : Byte) (s : State) : (deliveredByte b s).extractLsb' 0 8 = b := by
  apply BitVec.eq_of_getLsbD_eq
  intro i hi
  simp only [deliveredByte, BitVec.getLsbD_extractLsb', BitVec.getLsbD_append, hi, decide_true, Bool.true_and,
    Nat.zero_add, if_true]

/-- The byte at the even address of a word just written (20 R132). -/
theorem ramByte_setRamWord_first (a : Nat) (v : Word) (s : State) :
    ramByte (setRamWord a v s) a = (splitWord s.params.byteOrder v).1 := by
  rw [setRamWord, ramByte_setRamByte_other _ _ (by omega), ramByte_setRamByte_same]

/-- The byte after it (20 R132). -/
theorem ramByte_setRamWord_second (a : Nat) (v : Word) (s : State) :
    ramByte (setRamWord a v s) (a + 1) = (splitWord s.params.byteOrder v).2 := by
  rw [setRamWord, ramByte_setRamByte_same]

/-- Which half of a register a byte address names (20 R132). -/
theorem highHalf_eq (order : ByteOrder) (a : Word) :
    highHalf order a.toNat = (a.getLsbD 0 == decide (order = .little)) := by
  have hmod : a.toNat % 2 = 0 ∨ a.toNat % 2 = 1 := by omega
  rw [BitVec.getLsbD, Nat.testBit_zero]
  cases order <;> rcases hmod with h | h <;> simp [highHalf, h]

/-! ### Each kind of access -/

theorem deliver_dmaWrite_ram {a : Word} {s : State} (h : placeOf s a.toNat = .ram) (v : Byte) :
    deliver (.dmaWrite a v) s = setRamByte a.toNat v s := by
  simp only [deliver, dmaWrite, h]

theorem deliver_dmaWrite_other {a : Word} {s : State} (h : placeOf s a.toNat ≠ .ram) (v : Byte) :
    deliver (.dmaWrite a v) s = s := by
  unfold deliver dmaWrite
  dsimp only
  split
  · rename_i hram
    exact absurd hram h
  · rfl
  · rfl

section
variable {a : Word} {s : State}

theorem load_byte (h : placeOf s a.toNat ≠ .absent) :
    act false (.load (.abs a) .byte) s
      = Run.ok (setBus (deliveredByte (readDataByte (countDraw s) a.toNat) (countDraw s)) (countDraw s)) := by
  have haddr := addr_abs (countDraw s) a
  have hrun := loadAction_byte (ea := .abs a) (s := countDraw s) (by rw [haddr]; exact h)
  rw [haddr] at hrun
  exact hrun

theorem load_word (heven : a.getLsbD 0 = false) (h : placeOf s a.toNat ≠ .absent) :
    act false (.load (.abs a) .word) s
      = Run.ok (setBus (readDataWord (countDraw s) a.toNat) (countDraw s)) := by
  have haddr := addr_abs (countDraw s) a
  have hrun := loadAction_word (ea := .abs a) (s := countDraw s) (by rw [haddr]; exact heven) (by rw [haddr]; exact h)
  rw [haddr] at hrun
  exact hrun

theorem store_byte (v : Word) :
    act false (.store (.abs a) .byte (.lit v)) s
      = Run.ok (writeDataByte a.toNat (v.extractLsb' 0 8) (countDraw s)) := by
  have hrun := storeAction_byte (.abs a) v (countDraw s)
  rw [addr_abs] at hrun
  exact hrun

theorem store_word (heven : a.getLsbD 0 = false) (v : Word) :
    act false (.store (.abs a) .word (.lit v)) s = Run.ok (writeDataWord a.toNat v (countDraw s)) := by
  have haddr := addr_abs (countDraw s) a
  have hrun := storeAction_word (ea := .abs a) (s := countDraw s) (by rw [haddr]; exact heven) v
  rw [haddr] at hrun
  exact hrun

theorem modifyBit_word (heven : a.getLsbD 0 = false) (h : placeOf s a.toNat ≠ .absent) (i : Fin 16) (b : Bool) :
    act false (.modifyBit (.abs a) i b) s = Run.ok
      (writeDataWord a.toNat (putBit (readDataWord (countDraw s) a.toNat) i.val b) (countDraw s)) := by
  have haddr := addr_abs (countDraw s) a
  have hrun := modifyBitAction_word (ea := .abs a) (s := countDraw s) (by rw [haddr]; exact heven)
    (by rw [haddr]; exact h) i b
  rw [haddr] at hrun
  exact hrun

theorem fetch_word {implemented : State → Nat → Bool} (heven : a.getLsbD 0 = false)
    (h : implemented s a.toNat = true) :
    fetchAction implemented (.abs a) s = Run.ok (setBus (readDataWord s a.toNat) s) := by
  have haddr := addr_abs s a
  have hrun := fetchAction_word (implemented := implemented) (ea := .abs a) (s := s) (by rw [haddr]; exact heven)
    (by rw [haddr]; exact h)
  rw [haddr] at hrun
  exact hrun

theorem load_error (ho : trapPending .oscFail s = false) (hc : cpuIpl s < 13#4) {width : Width}
    (h : misaligned width a = true ∨ placeOf s a.toNat = .absent) :
    act false (.load (.abs a) width) s
      = ⟨setIntcon1Bit 3 (setBus (Config.openWord (s.draws + 1)) (countDraw s)), false, true⟩ := by
  have haddr := addr_abs (countDraw s) a
  exact (loadAction_of_error (ea := .abs a) (s := countDraw s) (by rw [haddr]; exact h)).trans
    (addressError_of_free ho hc)

theorem store_error (ho : trapPending .oscFail s = false) (hc : cpuIpl s < 13#4) (h : a.getLsbD 0 = true) (v : Word) :
    act false (.store (.abs a) .word (.lit v)) s = ⟨setIntcon1Bit 3 (countDraw s), false, true⟩ := by
  have haddr := addr_abs (countDraw s) a
  exact (storeAction_of_error (ea := .abs a) (s := countDraw s) (by rw [haddr]; exact h) v).trans
    (addressError_of_free (s := countDraw s) ho hc)

theorem modifyBit_error (ho : trapPending .oscFail s = false) (hc : cpuIpl s < 13#4)
    (h : a.getLsbD 0 = true ∨ placeOf s a.toNat = .absent) (i : Fin 16) (b : Bool) :
    act false (.modifyBit (.abs a) i b) s = ⟨setIntcon1Bit 3 (countDraw s), false, true⟩ := by
  have haddr := addr_abs (countDraw s) a
  exact (modifyBitAction_of_error (ea := .abs a) (s := countDraw s) (by rw [haddr]; exact h) i b).trans
    (addressError_of_free (s := countDraw s) ho hc)

theorem fetch_error (ho : trapPending .oscFail s = false) (hc : cpuIpl s < 13#4)
    {implemented : State → Nat → Bool} (h : a.getLsbD 0 = true ∨ implemented s a.toNat = false) :
    fetchAction implemented (.abs a) s = ⟨setIntcon1Bit 3 (setBus (Config.openWord s.draws) s), false, true⟩ := by
  have haddr := addr_abs s a
  exact (fetchAction_of_error (implemented := implemented) (ea := .abs a) (s := s) (by rw [haddr]; exact h)).trans
    (addressError_of_free ho hc)

end

/-- A word of data RAM written by an action changes data memory and the counter of free values only. -/
theorem setRamWord_countDraw_frame (a : Nat) (v : Word) (s : State) :
    { setRamWord a v (countDraw s) with mem := s.mem, draws := s.draws } = s := by simp

/-! ### What stands at an address -/

theorem not_absent_of_ram {s : State} {a : Nat} (h : placeOf s a = .ram) : placeOf s a ≠ .absent := by
  rw [h]
  decide

theorem not_absent_of_reg {s : State} {a : Nat} {r : Reg} (h : placeOf s a = .reg r) : placeOf s a ≠ .absent := by
  rw [h]
  exact fun hc => by cases hc

theorem readDataWord_ram {s : State} {a : Nat} (h : placeOf s a = .ram) : readDataWord s a = ramWord s a := by
  simp only [readDataWord, h]

theorem readDataWord_reg {s : State} {a : Nat} {r : Reg} (h : placeOf s a = .reg r) :
    readDataWord s a = readReg r s := by
  simp only [readDataWord, h]

theorem readDataByte_ram {s : State} {a : Nat} (h : placeOf s a = .ram) : readDataByte s a = ramByte s a := by
  simp only [readDataByte, h]

/-- The half of a register that a byte read delivers. -/
theorem readDataByte_reg {s : State} {a : Nat} {r : Reg} (h : placeOf s a = .reg r) :
    readDataByte s a = (readReg r s).extractLsb' (if highHalf s.params.byteOrder a then 8 else 0) 8 := by
  simp only [readDataByte, h]
  split <;> rfl

theorem writeDataWord_reg {s : State} {a : Nat} {r : Reg} (h : placeOf s a = .reg r) (v : Word) :
    writeDataWord a v s = swWrite r v s := by
  simp only [writeDataWord, h]

theorem writeDataByte_ram {s : State} {a : Nat} (h : placeOf s a = .ram) (v : Byte) :
    writeDataByte a v s = setRamByte a v s := by
  simp only [writeDataByte, h]

theorem writeDataByte_reg {s : State} {a : Nat} {r : Reg} (h : placeOf s a = .reg r) (v : Byte) :
    writeDataByte a v s = swWriteByte r (highHalf s.params.byteOrder a) v s := by
  simp only [writeDataByte, h]

theorem writeDataWord_absent {s : State} {a : Nat} (h : placeOf s a = .absent) (v : Word) :
    writeDataWord a v s = s := by
  simp only [writeDataWord, h]

theorem writeDataByte_absent {s : State} {a : Nat} (h : placeOf s a = .absent) (v : Byte) :
    writeDataByte a v s = s := by
  simp only [writeDataByte, h]

/-! ### The accesses at a word of data RAM -/

theorem store_word_ram {a : Word} {s : State} (h : ramAt s a) (v : Word) :
    act false (.store (.abs a) .word (.lit v)) s = Run.ok (setRamWord a.toNat v (countDraw s)) := by
  obtain ⟨heven, hplace, -⟩ := h
  rw [store_word heven, writeDataWord_ram (s := countDraw s) hplace]

theorem load_word_ram {a : Word} {s : State} (h : ramAt s a) :
    act false (.load (.abs a) .word) s = Run.ok (setBus (ramWord s a.toNat) (countDraw s)) := by
  obtain ⟨heven, hplace, -⟩ := h
  rw [load_word heven (not_absent_of_ram hplace), readDataWord_ram (s := countDraw s) hplace]
  rfl

theorem modifyBit_word_ram {a : Word} {s : State} (h : ramAt s a) (i : Fin 16) (b : Bool) :
    act false (.modifyBit (.abs a) i b) s
      = Run.ok (setRamWord a.toNat (putBit (ramWord s a.toNat) i.val b) (countDraw s)) := by
  obtain ⟨heven, hplace, -⟩ := h
  rw [modifyBit_word heven (not_absent_of_ram hplace), readDataWord_ram (s := countDraw s) hplace,
    writeDataWord_ram (s := countDraw s) hplace]
  rfl

/-- A store through W15 with an offset, whose address is a word of data RAM. -/
theorem store_w15_ram {offset : Int} {ea : Word} {s : State} (hea : (EA.w15 offset).addr (countDraw s) = ea)
    (h : ramAt s ea) (v : Word) :
    act false (.store (.w15 offset) .word (.lit v)) s
      = Run.ok (eaCheck (.w15 offset) (countDraw s) (setRamWord ea.toNat v (countDraw s))) := by
  obtain ⟨heven, hplace, -⟩ := h
  have hrun := storeAction_word (ea := .w15 offset) (s := countDraw s) (by rw [hea]; exact heven) v
  rw [hea, writeDataWord_ram (s := countDraw s) hplace] at hrun
  exact hrun

/-- A load through W15 with an offset, whose address is a word of data RAM. -/
theorem load_w15_ram {offset : Int} {ea : Word} {s : State} (hea : (EA.w15 offset).addr (countDraw s) = ea)
    (h : ramAt s ea) :
    act false (.load (.w15 offset) .word) s
      = Run.ok (setBus (ramWord s ea.toNat) (eaCheck (.w15 offset) (countDraw s) (countDraw s))) := by
  obtain ⟨heven, hplace, -⟩ := h
  have hrun := loadAction_word (ea := .w15 offset) (s := countDraw s) (by rw [hea]; exact heven)
    (by rw [hea]; exact not_absent_of_ram hplace)
  rw [hea, readDataWord_ram (s := countDraw s) hplace] at hrun
  exact hrun

/-- INTCON1 after the check of an address formed from W15, by whether it fails. -/
theorem eaCheck_w15_of_violation {offset : Int} {before s : State}
    (h : stackViolation before ((sp before).toNat + offset) ((EA.w15 offset).addr before) = true) :
    (eaCheck (.w15 offset) before s).intcon1 = putBit s.intcon1 2 true :=
  (eaCheck_w15_intcon1 offset before s).trans (if_pos h)

theorem eaCheck_w15_of_fits {offset : Int} {before s : State}
    (h : stackViolation before ((sp before).toNat + offset) ((EA.w15 offset).addr before) = false) :
    (eaCheck (.w15 offset) before s).intcon1 = s.intcon1 :=
  (eaCheck_w15_intcon1 offset before s).trans (if_neg (Bool.eq_false_iff.mp h))

/-- The fetch is outside the implemented memory of the X side. -/
theorem xImplemented_eq_false {s : State} {a : Nat}
    (h : ¬ (dataImplemented s a = true ∧ inRanges s.params.xSpace a = true ∧ inRanges s.params.ySpace a = false)) :
    xImplemented s a = false := by
  rw [Bool.eq_false_iff, ne_eq, xImplemented, Bool.and_eq_true, Bool.and_eq_true, Bool.not_eq_true', and_assoc]
  exact h

theorem yImplemented_eq_false {s : State} {a : Nat}
    (h : ¬ (dataImplemented s a = true ∧ inRanges s.params.ySpace a = true ∧ inRanges s.params.xSpace a = false)) :
    yImplemented s a = false := by
  rw [Bool.eq_false_iff, ne_eq, yImplemented, Bool.and_eq_true, Bool.and_eq_true, Bool.not_eq_true', and_assoc]
  exact h

theorem xImplemented_eq_true {s : State} {a : Nat} (hd : dataImplemented s a = true)
    (hx : inRanges s.params.xSpace a = true) (hy : inRanges s.params.ySpace a = false) : xImplemented s a = true := by
  rw [xImplemented, hd, hx, hy]
  rfl

theorem yImplemented_eq_true {s : State} {a : Nat} (hd : dataImplemented s a = true)
    (hy : inRanges s.params.ySpace a = true) (hx : inRanges s.params.xSpace a = false) : yImplemented s a = true := by
  rw [yImplemented, hd, hx, hy]
  rfl

/-- Settles O52, one clause after the other, each from the equation of its access. -/
theorem dataAccesses : Obligations.DataAccesses := by
  intro s
  refine ⟨fun a v => ⟨fun hram => ?_, fun hother => deliver_dmaWrite_other hother v⟩, fun a v hram => ?_,
    fun a v hram => ?_, fun a v r hreg => ?_, fun a v r hreg heven => ?_, fun a i b hram => ?_,
    fun a heven hd => ⟨fun hx hy => ?_, fun hy hx => ?_⟩, fun a v width habsent haligned => ?_,
    fun ho hc => ⟨fun a v hodd => ?_, fun a i b herr => ?_, fun a width habsent => ?_, fun a herr => ?_,
      fun a herr => ?_⟩,
    fun offset v ea hea hram => ?_⟩
  · rw [deliver_dmaWrite_ram hram]
    exact ⟨ramByte_setRamByte_same _ v s, fun b hb => ramByte_setRamByte_other v s hb, rfl⟩
  · rw [store_byte, writeDataByte_ram (s := countDraw s) hram, load_byte (not_absent_of_ram hram),
      readDataByte_ram (s := countDraw s) hram]
    exact ⟨ramByte_setRamByte_same _ _ _, fun b hb => ramByte_setRamByte_other _ (countDraw s) hb, by simp [Run.ok],
      extractLsb'_deliveredByte _ _, by simp [Run.ok]⟩
  · have hfirst := ramByte_setRamWord_first a.toNat v (countDraw s)
    have hsecond := ramByte_setRamWord_second a.toNat v (countDraw s)
    rw [store_word_ram hram, load_word_ram hram]
    dsimp only [Run.ok]
    refine ⟨fun horder => ?_, fun horder => ?_, fun b h0 h1 => ramByte_setRamWord_other v (countDraw s) h0 h1,
      setRamWord_countDraw_frame _ v s, by simp⟩
    · rw [countDraw_params, horder] at hfirst hsecond
      exact ⟨by simp only [setBus_bus, ramWord, horder, joinBytes], hfirst, hsecond⟩
    · rw [countDraw_params, horder] at hfirst hsecond
      exact ⟨by simp only [setBus_bus, ramWord, horder, joinBytes], hfirst, hsecond⟩
  · intro high
    have hhigh : highHalf (countDraw s).params.byteOrder a.toNat = high := highHalf_eq _ a
    rw [load_byte (not_absent_of_reg hreg), readDataByte_reg (s := countDraw s) hreg, store_byte,
      writeDataByte_reg (s := countDraw s) hreg, hhigh]
    exact ⟨extractLsb'_deliveredByte _ _, by simp [Run.ok], rfl⟩
  · rw [load_word heven (not_absent_of_reg hreg), readDataWord_reg (s := countDraw s) hreg, store_word heven,
      writeDataWord_reg (s := countDraw s) hreg]
    refine ⟨rfl, rfl, fun i b => ?_⟩
    rw [modifyBit_word heven (not_absent_of_reg hreg), readDataWord_reg (s := countDraw s) hreg,
      writeDataWord_reg (s := countDraw s) hreg]
  · rw [modifyBit_word_ram hram]
    dsimp only [Run.ok]
    exact ⟨ramWord_setRamWord_same _ _ _, fun c h0 h1 => ramByte_setRamWord_other _ (countDraw s) h0 h1,
      setRamWord_countDraw_frame _ _ s⟩
  · exact fetch_word (s := countDraw s) heven (xImplemented_eq_true hd hx hy)
  · exact fetch_word (s := countDraw s) heven (yImplemented_eq_true hd hy hx)
  · cases width with
    | byte =>
      rw [store_byte, writeDataByte_absent (s := countDraw s) habsent]
      exact ⟨rfl, rfl⟩
    | word =>
      rw [store_word (haligned rfl), writeDataWord_absent (s := countDraw s) habsent]
      exact ⟨rfl, rfl⟩
  · rw [load_error (width := .word) ho hc (.inl hodd), store_error ho hc hodd]
    exact ⟨rfl, rfl, rfl, rfl, fun _ => rfl, by simp⟩
  · rw [modifyBit_error ho hc herr]
    exact ⟨rfl, rfl, fun _ => rfl, by simp⟩
  · rw [load_error ho hc (.inr habsent)]
    exact ⟨rfl, rfl, by simp⟩
  · have hrun := fetch_error (s := countDraw s) ho hc (herr.imp_right xImplemented_eq_false)
    exact ⟨congrArg (·.addrErr) hrun, congrArg (·.state.intcon1) hrun⟩
  · have hrun := fetch_error (s := countDraw s) ho hc (herr.imp_right yImplemented_eq_false)
    exact ⟨congrArg (·.addrErr) hrun, congrArg (·.state.intcon1) hrun⟩
  · have haddr : (EA.w15 offset).addr (countDraw s) = ea := hea.symm
    rw [store_w15_ram haddr hram, load_w15_ram haddr hram]
    dsimp only [Run.ok]
    refine ⟨?_, fun b h0 h1 => ?_, rfl, fun hviol => ?_, fun hfull hlimit hbase => ?_, ?_, ?_⟩
    · exact (eaCheck_keeps (ramWord · ea.toNat) (fun _ _ _ _ => rfl) _ _ _).trans (ramWord_setRamWord_same _ v _)
    · exact (eaCheck_keeps (ramByte · b) (fun _ _ _ _ => rfl) _ _ _).trans
        (ramByte_setRamWord_other v (countDraw s) h0 h1)
    · rw [← haddr] at hviol
      have hfails := stackViolation_full_iff (s := countDraw s).mpr hviol
      exact ⟨eaCheck_w15_of_violation hfails, eaCheck_w15_of_violation hfails⟩
    · rw [← haddr] at hlimit hbase
      have hfits := stackViolation_of_within (s := countDraw s) hfull hlimit hbase
      exact ⟨eaCheck_w15_of_fits hfits, eaCheck_w15_of_fits hfits⟩
    · have hwritten : { setRamWord ea.toNat v (countDraw s) with
          mem := s.mem, intcon1 := s.intcon1, skidStk := s.skidStk, draws := s.draws } = s := by simp
      have hchecked := eaCheck_keeps (fun t => { t with
        mem := s.mem, intcon1 := s.intcon1, skidStk := s.skidStk, draws := s.draws }) (fun _ _ _ _ => rfl)
        (.w15 offset) (countDraw s) (setRamWord ea.toNat v (countDraw s))
      exact hchecked.trans hwritten
    · exact eaCheck_keeps (fun t => { t with
        bus := s.bus, intcon1 := s.intcon1, skidStk := s.skidStk, draws := s.draws }) (fun _ _ _ _ => rfl) _ _ _

end Sys2Proof.Machine
